-- ==== Sys2Proof/Word.lean ====
section
/-! DEFINITION. The datum every access of the block moves: one byte (R6, R47). -/

namespace Sys2Proof

/-- A byte: 8 bits, unsigned (R6). -/
abbrev Byte := BitVec 8

end Sys2Proof
end

