-- ==== Sys2Proof/Config.lean ====
section
/-! DEFINITION. The parameters the spec makes arguments of the model (R5), as plain data, their spec defaults, and the
free values. -/

namespace Sys2Proof

/-- A colour: red, green, blue, white intensities, in that order (R45 (1)). -/
structure Color where
  r : Byte
  g : Byte
  b : Byte
  w : Byte
  deriving DecidableEq, Repr

/-- Bytes per pixel: 3 or 4 (R5, constraint on `PIXEL_DECODE`). -/
inductive Bpp where
  | three
  | four
  deriving DecidableEq, Repr

/-- What `PIXEL_DECODE` answers: `BPP` and the four channel offsets, each in 0..3 (R41, R5). -/
structure PixelFormat where
  bpp  : Bpp
  offR : BitVec 2
  offG : BitVec 2
  offB : BitVec 2
  offW : BitVec 2
  deriving DecidableEq, Repr

/-- The parameter `PIXEL_DECODE` as plain data: the default encoding of R41, or any other function of the 16-bit pixel type,
as a table with one format for every type it does not list. DESIGN CHOICE, log 3, safe: a table can list every type, so no
admissible function is left out. -/
inductive PixelDecode where
  | neoPixel
  | table (rows : List (BitVec 16 × PixelFormat)) (other : PixelFormat)
  deriving DecidableEq, Repr

/-- The fourteen commands (R65). -/
inductive Cmd where
  | cShow
  | cClear
  | cClearShow
  | cCopyAll
  | cSetLedCount
  | cSetPixelType
  | cSetBusAddr
  | cSetDefaultFromIndex
  | cSetLedColor
  | cSetAllColor
  | cSetDefaultColor
  | cPower
  | cRainbow
  | cDeviceReset
  deriving DecidableEq, Repr

/-- The parameter `CMD_CODE`: one code byte for each command (R5, R66). -/
structure CmdCodes where
  cShow                : Byte
  cClear               : Byte
  cClearShow           : Byte
  cCopyAll             : Byte
  cSetLedCount         : Byte
  cSetPixelType        : Byte
  cSetBusAddr          : Byte
  cSetDefaultFromIndex : Byte
  cSetLedColor         : Byte
  cSetAllColor         : Byte
  cSetDefaultColor     : Byte
  cPower               : Byte
  cRainbow             : Byte
  cDeviceReset         : Byte
  deriving DecidableEq, Repr

/-- The implementation parameters of R5, each under the rule's name. They are held in `State.par`, which no step writes, so
every statement about a state is a statement about every value of them (log 2). `WDT_SHORT` and `SETTLE_DELAY` are not
modelled: the model has no time (R5, R172). -/
structure Params where
  /-- `MAX_LEDS`: frame-buffer capacity in pixels. -/
  maxLeds      : Nat
  /-- `CMD_CODE`. -/
  codes        : CmdCodes
  /-- `BL_ADDR_IDENT`, `BL_ADDR_RESET`, `BL_ADDR_JUMP`: the reserved register addresses. -/
  blAddrIdent  : Byte
  blAddrReset  : Byte
  blAddrJump   : Byte
  /-- `BL_RESP_IDENT`, `BL_RESP_RESET`, `BL_RESP_JUMP`: the byte sequences read at the reserved addresses. -/
  blRespIdent  : List Byte
  blRespReset  : List Byte
  blRespJump   : List Byte
  /-- `CFG_MAGIC`. -/
  cfgMagic     : Byte
  /-- `NV_BASE`. -/
  nvBase       : Nat
  /-- `DEF_BUS_ADDR`, `DEF_PIXEL_TYPE`, `DEF_LED_COUNT`, `DEF_COLOR`: the compiled-in defaults. -/
  defBusAddr   : Byte
  defPixelType : BitVec 16
  defLedCount  : Byte
  defColor     : Color
  /-- `PWR_ON_RESET`. -/
  pwrOnReset   : Bool
  /-- `PIXEL_DECODE`. -/
  pixelDecode  : PixelDecode
  /-- `MAX_TXN_LEN`. -/
  maxTxnLen    : Nat
  deriving DecidableEq, Repr

/-- `FB_BYTES = MAX_LEDS * BPP_MAX`, with `BPP_MAX = 4` (R5). -/
def Params.fbBytes (p : Params) : Nat := p.maxLeds * 4

/-- The default code map of R66. -/
def CmdCodes.specDefault : CmdCodes where
  cShow                := 0x01
  cClear               := 0x02
  cClearShow           := 0x03
  cCopyAll             := 0x04
  cSetLedCount         := 0x05
  cSetPixelType        := 0x06
  cSetBusAddr          := 0x07
  cSetDefaultFromIndex := 0x08
  cSetLedColor         := 0x09
  cSetAllColor         := 0x0A
  cSetDefaultColor     := 0x0B
  cPower               := 0x0C
  cRainbow             := 0x0D
  cDeviceReset         := 0x0E

/-- The values State.reset carries: R5's spec defaults where R5 gives one. For `BL_ADDR_*`, `BL_RESP_*` and `MAX_TXN_LEN`, which
have none, the placeholders of 95_test_vectors.md §1 (D48). DESIGN CHOICE, log 2, unsafe for a claim that rests on one of
these placeholders: of this package's statements only the two about `State.reset` itself do. -/
def Params.specDefault : Params where
  maxLeds      := 64
  codes        := CmdCodes.specDefault
  blAddrIdent  := 0xF0
  blAddrReset  := 0xF1
  blAddrJump   := 0xF2
  blRespIdent  := [0x11, 0x22]
  blRespReset  := [0x33]
  blRespJump   := [0x44]
  cfgMagic     := 0x5A
  nvBase       := 0
  defBusAddr   := 0x10
  defPixelType := 0x00D2
  defLedCount  := 8
  defColor     := ⟨0, 0, 0, 0⟩
  pwrOnReset   := true
  pixelDecode  := .neoPixel
  maxTxnLen    := 32

/-- The `n`-th byte drawn in a run: `FREE_MEM` of the diagnostic reset (R109, D24) and `RAINBOW_BYTES` of the pattern generator
(R108, D23). A free value: it has no body, so nothing can be proved of which byte it is (log 6, safe). -/
opaque Config.freeByte : Nat → Byte

/-- The free choice CTRL makes among pending flags when the schedule leaves it to CTRL (R116: "any flag"; log 5, safe). -/
opaque Config.serviceChoice : Nat → Nat

end Sys2Proof
end

