-- ==== Sys2Proof/Syntax.lean ====
section
/-! DEFINITION. The bus operations of the block: one constructor per row of spec/opcode_table.json, and the bus events that
carry them (R59, R60, R61). -/

namespace Sys2Proof

/-- A bus event, as the bus engine delivers it (R59): the complete byte list of one write transaction, or the request for one
byte. -/
inductive BusEvent where
  | write (T : List Byte)
  | read
  deriving DecidableEq, Repr

/-- The transaction formats (R60, R61). -/
inductive TxnFormat where
  | txnEmpty
  | txnAddr
  | txnWrite
  | txnCmd
  | txnRead
  deriving DecidableEq, Repr

/-- The rows of spec/opcode_table.json, in the table's order. A row's operands are the bytes of its encoding that its fixed
part does not give. -/
inductive Instr where
  /-- `TXN_EMPTY`, R77. -/
  | txnEmpty
  /-- `ADDR_SET_CMD`, R78. -/
  | addrSetCmd
  /-- `ADDR_SET_LED`, R79. -/
  | addrSetLed (a : Byte)
  /-- `ADDR_SET_CLAMP`, R80. -/
  | addrSetClamp (a : Byte)
  /-- `ADDR_SET_BL_IDENT`, R81. -/
  | addrSetBlIdent
  /-- `ADDR_SET_BL_RESET`, R82. -/
  | addrSetBlReset
  /-- `ADDR_SET_BL_JUMP`, R83. -/
  | addrSetBlJump
  /-- `REG_WRITE`, R84. -/
  | regWrite (a : Byte) (data : List Byte)
  /-- `REG_WRITE_DROP`, R85. -/
  | regWriteDrop (a : Byte) (data : List Byte)
  /-- `CMD_WRITE`, R86: the code byte and the argument bytes of the payload. -/
  | cmdWrite (k : Byte) (args : List Byte)
  /-- `READ_CMD`, R87. -/
  | readCmd
  /-- `READ_LED`, R88. -/
  | readLed
  /-- `READ_BL`, R89. -/
  | readBl
  /-- `READ_FIX`, R90. -/
  | readFix
  /-- `CMD_SHOW`, R96. -/
  | cmdShow
  /-- `CMD_CLEAR`, R97. -/
  | cmdClear
  /-- `CMD_CLEAR_SHOW`, R98. -/
  | cmdClearShow
  /-- `CMD_COPY_ALL`, R99. -/
  | cmdCopyAll (i : Byte)
  /-- `CMD_SET_LED_COUNT`, R100. -/
  | cmdSetLedCount (n : Byte)
  /-- `CMD_SET_PIXEL_TYPE`, R101. -/
  | cmdSetPixelType (hi lo : Byte)
  /-- `CMD_SET_BUS_ADDR`, R102. -/
  | cmdSetBusAddr (a : Byte)
  /-- `CMD_SET_DEFAULT_FROM_INDEX`, R103. -/
  | cmdSetDefaultFromIndex (i : Byte)
  /-- `CMD_SET_LED_COLOR`, R104. -/
  | cmdSetLedColor (i r g b w : Byte)
  /-- `CMD_SET_ALL_COLOR`, R105. -/
  | cmdSetAllColor (r g b w : Byte)
  /-- `CMD_SET_DEFAULT_COLOR`, R106. -/
  | cmdSetDefaultColor (r g b w : Byte)
  /-- `CMD_POWER`, R107. -/
  | cmdPower (v : Byte)
  /-- `CMD_RAINBOW`, R108. -/
  | cmdRainbow
  /-- `CMD_DEVICE_RESET`, R109. -/
  | cmdDeviceReset
  deriving DecidableEq, Repr

/-- What decoding depends on beside the bytes (R34, R60, R61): the parameters, `CFG_COUNT`, `CFG_PTYPE` (for `BPP`) and the
pointer, all as they stand when the event is taken. -/
structure Ctx where
  par     : Params
  count   : Byte
  ptype   : BitVec 16
  curAddr : Byte
  cursor  : Byte
  deriving DecidableEq, Repr

end Sys2Proof
end

