-- ==== Sys2Proof/Decode.lean ====
section
/-! DEFINITION. Constraints on the parameters (R5), the pixel format (R41), the register address classes (R34), the decoder of
bus events (R60 to R73), and after it the encoder. -/

namespace Sys2Proof

/-! ### Parameters -/

/-- The commands in the order of R65. -/
def Cmd.all : List Cmd :=
  [.cShow, .cClear, .cClearShow, .cCopyAll, .cSetLedCount, .cSetPixelType, .cSetBusAddr, .cSetDefaultFromIndex, .cSetLedColor,
    .cSetAllColor, .cSetDefaultColor, .cPower, .cRainbow, .cDeviceReset]

/-- `CMD_CODE(c)` (R5). -/
def CmdCodes.code (m : CmdCodes) : Cmd → Byte
  | .cShow => m.cShow
  | .cClear => m.cClear
  | .cClearShow => m.cClearShow
  | .cCopyAll => m.cCopyAll
  | .cSetLedCount => m.cSetLedCount
  | .cSetPixelType => m.cSetPixelType
  | .cSetBusAddr => m.cSetBusAddr
  | .cSetDefaultFromIndex => m.cSetDefaultFromIndex
  | .cSetLedColor => m.cSetLedColor
  | .cSetAllColor => m.cSetAllColor
  | .cSetDefaultColor => m.cSetDefaultColor
  | .cPower => m.cPower
  | .cRainbow => m.cRainbow
  | .cDeviceReset => m.cDeviceReset

/-- A response sequence is a non-empty list of at most 256 bytes (R5). -/
def respOk (l : List Byte) : Bool := !l.isEmpty && decide (l.length ≤ 256)

/-- The constraints of R5's last column that the types do not already carry. A value that violates one is refused (R8). -/
def Params.wf (p : Params) : Bool :=
  decide (1 ≤ p.maxLeds) && decide (p.maxLeds ≤ 252)
    && decide (p.maxLeds < p.blAddrIdent.toNat) && decide (p.maxLeds < p.blAddrReset.toNat)
    && decide (p.maxLeds < p.blAddrJump.toNat)
    && decide (p.blAddrIdent ≠ p.blAddrReset) && decide (p.blAddrIdent ≠ p.blAddrJump)
    && decide (p.blAddrReset ≠ p.blAddrJump)
    && respOk p.blRespIdent && respOk p.blRespReset && respOk p.blRespJump
    && decide (Cmd.all.map p.codes.code).Nodup
    && decide (1 ≤ p.defLedCount.toNat) && decide (p.defLedCount.toNat ≤ p.maxLeds)
    && decide (7 ≤ p.maxTxnLen)

/-! ### Pixel format -/

/-- `BPP` as a number (R41). -/
def Bpp.toNat : Bpp → Nat
  | .three => 3
  | .four => 4

/-- The spec's default `PIXEL_DECODE` (R41): `OFF_W = t[7:6]`, `OFF_R = t[5:4]`, `OFF_G = t[3:2]`, `OFF_B = t[1:0]`, and `BPP = 3`
exactly when `OFF_W = OFF_R`. -/
def neoPixelDecode (t : BitVec 16) : PixelFormat where
  bpp  := if t.extractLsb' 6 2 = t.extractLsb' 4 2 then .three else .four
  offR := t.extractLsb' 4 2
  offG := t.extractLsb' 2 2
  offB := t.extractLsb' 0 2
  offW := t.extractLsb' 6 2

/-- `PIXEL_DECODE(t)` for the parameter's value (R41, log 3). -/
def PixelDecode.apply (d : PixelDecode) (t : BitVec 16) : PixelFormat :=
  match d with
  | .neoPixel => neoPixelDecode t
  | .table rows other =>
    match rows.find? (fun row => row.1 == t) with
    | some row => row.2
    | none => other

/-- The pixel format in force (R17: evaluated at every use). -/
def Ctx.fmt (c : Ctx) : PixelFormat := c.par.pixelDecode.apply c.ptype

/-! ### Register address classes -/

/-- The classes of R34. -/
inductive RegClass where
  | cmd
  | led
  | blIdent
  | blReset
  | blJump
  | invalid
  deriving DecidableEq, Repr

/-- Register address decode, the tests in the order of R34's table. -/
def regClass (p : Params) (count a : Byte) : RegClass :=
  if a = 0 then .cmd
  else if 1 ≤ a.toNat ∧ a.toNat ≤ count.toNat then .led
  else if a = p.blAddrIdent then .blIdent
  else if a = p.blAddrReset then .blReset
  else if a = p.blAddrJump then .blJump
  else .invalid

/-- The response sequence of a reserved address's class (R5); a class that is no reserved address has none. -/
def blResp (p : Params) : RegClass → List Byte
  | .blIdent => p.blRespIdent
  | .blReset => p.blRespReset
  | .blJump => p.blRespJump
  | .cmd => []
  | .led => []
  | .invalid => []

/-! ### Commands -/

/-- The command whose code is `k` (R93: "the command c with CMD_CODE(c) = k"), if there is one. -/
def CmdCodes.find (m : CmdCodes) (k : Byte) : Option Cmd :=
  Cmd.all.find? (fun c => m.code c == k)

/-- The arity table (R65). -/
def Cmd.arity : Cmd → Nat
  | .cShow => 0
  | .cClear => 0
  | .cClearShow => 0
  | .cCopyAll => 1
  | .cSetLedCount => 1
  | .cSetPixelType => 2
  | .cSetBusAddr => 1
  | .cSetDefaultFromIndex => 1
  | .cSetLedColor => 5
  | .cSetAllColor => 4
  | .cSetDefaultColor => 4
  | .cPower => 1
  | .cRainbow => 0
  | .cDeviceReset => 0

/-- Argument byte `j` of a command, `P[j + 1]` of R67 to R69. It is used only below the arity, after the arity check, so the list
holds the byte. -/
def argByte (args : List Byte) (j : Nat) : Byte := args.getD j 0

/-- Argument assembly (R65, R67 to R70): the command with the first `arity` argument bytes; later bytes are ignored (R71). -/
def buildCommand (c : Cmd) (args : List Byte) : Instr :=
  match c with
  | .cShow => .cmdShow
  | .cClear => .cmdClear
  | .cClearShow => .cmdClearShow
  | .cCopyAll => .cmdCopyAll (argByte args 0)
  | .cSetLedCount => .cmdSetLedCount (argByte args 0)
  | .cSetPixelType => .cmdSetPixelType (argByte args 0) (argByte args 1)
  | .cSetBusAddr => .cmdSetBusAddr (argByte args 0)
  | .cSetDefaultFromIndex => .cmdSetDefaultFromIndex (argByte args 0)
  | .cSetLedColor => .cmdSetLedColor (argByte args 0) (argByte args 1) (argByte args 2) (argByte args 3) (argByte args 4)
  | .cSetAllColor => .cmdSetAllColor (argByte args 0) (argByte args 1) (argByte args 2) (argByte args 3)
  | .cSetDefaultColor => .cmdSetDefaultColor (argByte args 0) (argByte args 1) (argByte args 2) (argByte args 3)
  | .cPower => .cmdPower (argByte args 0)
  | .cRainbow => .cmdRainbow
  | .cDeviceReset => .cmdDeviceReset

/-- A command payload (R64): the command's own row where the code is known and the arguments suffice, else the row `CMD_WRITE`,
whose meaning drops it (R72). DEDUCED, log 14, safe. -/
def decodeCommand (m : CmdCodes) (k : Byte) (args : List Byte) : Instr :=
  match m.find k with
  | none => .cmdWrite k args
  | some c => if args.length < c.arity then .cmdWrite k args else buildCommand c args

/-! ### The decoder -/

/-- The format of a bus event (R60, R61; decode order R63). -/
def BusEvent.format : BusEvent → TxnFormat
  | .write [] => .txnEmpty
  | .write [_] => .txnAddr
  | .write (a :: _ :: _) => if a = 0 then .txnCmd else .txnWrite
  | .read => .txnRead

/-- Decode of a write transaction (R60, R63): total. -/
def decodeWrite (c : Ctx) : List Byte → Instr
  | [] => .txnEmpty
  | [a] =>
    match regClass c.par c.count a with
    | .cmd => .addrSetCmd
    | .led => .addrSetLed a
    | .blIdent => .addrSetBlIdent
    | .blReset => .addrSetBlReset
    | .blJump => .addrSetBlJump
    | .invalid => .addrSetClamp a
  | a :: d :: ds =>
    if a = 0 then decodeCommand c.par.codes d ds
    else if regClass c.par c.count a = .led then .regWrite a (d :: ds)
    else .regWriteDrop a (d :: ds)

/-- Decode of a read byte request, by the pointer (R61, R76; the conditions of the table's READ rows). -/
def decodeRead (c : Ctx) : Instr :=
  match regClass c.par c.count c.curAddr with
  | .cmd => .readCmd
  | .led => if c.cursor.toNat < c.fmt.bpp.toNat then .readLed else .readFix
  | .blIdent => if c.cursor.toNat < c.par.blRespIdent.length then .readBl else .readFix
  | .blReset => if c.cursor.toNat < c.par.blRespReset.length then .readBl else .readFix
  | .blJump => if c.cursor.toNat < c.par.blRespJump.length then .readBl else .readFix
  | .invalid => .readFix

/-- Why the decoder rejects an event: it is no event of the block's interface. -/
inductive DecodeReject where
  /-- A write transaction longer than `MAX_TXN_LEN` (R62; item 11 of 93_implementation_defined.md: refuse). -/
  | txnTooLong
  deriving DecidableEq, Repr

/-- Decode of a bus event: total, and every deliverable event has exactly one operation (R63). -/
def decode (c : Ctx) : BusEvent → Except DecodeReject Instr
  | .read => .ok (decodeRead c)
  | .write T => if T.length ≤ c.par.maxTxnLen then .ok (decodeWrite c T) else .error .txnTooLong

/-! ### The encoder -/

/-- The bus event that carries an operation, from the encodings of R60, R64 and R65. -/
def encode (p : Params) : Instr → BusEvent
  | .txnEmpty => .write []
  | .addrSetCmd => .write [0]
  | .addrSetLed a => .write [a]
  | .addrSetClamp a => .write [a]
  | .addrSetBlIdent => .write [p.blAddrIdent]
  | .addrSetBlReset => .write [p.blAddrReset]
  | .addrSetBlJump => .write [p.blAddrJump]
  | .regWrite a data => .write (a :: data)
  | .regWriteDrop a data => .write (a :: data)
  | .cmdWrite k args => .write (0 :: k :: args)
  | .readCmd => .read
  | .readLed => .read
  | .readBl => .read
  | .readFix => .read
  | .cmdShow => .write [0, p.codes.cShow]
  | .cmdClear => .write [0, p.codes.cClear]
  | .cmdClearShow => .write [0, p.codes.cClearShow]
  | .cmdCopyAll i => .write [0, p.codes.cCopyAll, i]
  | .cmdSetLedCount n => .write [0, p.codes.cSetLedCount, n]
  | .cmdSetPixelType hi lo => .write [0, p.codes.cSetPixelType, hi, lo]
  | .cmdSetBusAddr a => .write [0, p.codes.cSetBusAddr, a]
  | .cmdSetDefaultFromIndex i => .write [0, p.codes.cSetDefaultFromIndex, i]
  | .cmdSetLedColor i r g b w => .write [0, p.codes.cSetLedColor, i, r, g, b, w]
  | .cmdSetAllColor r g b w => .write [0, p.codes.cSetAllColor, r, g, b, w]
  | .cmdSetDefaultColor r g b w => .write [0, p.codes.cSetDefaultColor, r, g, b, w]
  | .cmdPower v => .write [0, p.codes.cPower, v]
  | .cmdRainbow => .write [0, p.codes.cRainbow]
  | .cmdDeviceReset => .write [0, p.codes.cDeviceReset]

/-! ### Words of the opcode table -/

/-- The `n` bytes of a table word, first byte first. The table numbers a row's bytes as one number whose MOST significant byte is
the first byte of the transaction ("match and mask apply to the first two bytes of the write transaction (address byte 0x00,
then the code byte)": 0x0001 is 00 01). DEDUCED, log 13, safe. -/
def tableBytes : Nat → Nat → List Byte
  | 0, _ => []
  | n + 1, w => tableBytes n (w / 256) ++ [BitVec.ofNat 8 w]

/-- The write transaction a table word stands for: its bytes, and after a command's code zero bytes in place of the argument bytes
the row gives no bits (surplus ones are ignored, R71). One byte alone is an address-only write (R60). -/
def tableTransaction (nbits w : Nat) : List Byte :=
  let T := tableBytes (nbits / 8) w
  match T with
  | 0 :: _ :: _ => T ++ List.replicate (7 - T.length) 0
  | _ => T

/-- The context right after a reset that loads the defaults (R156, R159). -/
def Ctx.ofDefaults (p : Params) : Ctx := ⟨p, p.defLedCount, p.defPixelType, 0, 0⟩

/-- The operation the decoder reads from a word of the opcode table, in the context right after reset. -/
def decodeTableWord (nbits w : Nat) : Option Instr :=
  match decode (Ctx.ofDefaults Params.specDefault) (.write (tableTransaction nbits w)) with
  | .ok i => some i
  | .error _ => none

end Sys2Proof
end

