-- ==== Sys2Proof/WellFormed.lean ====
section
/-! DEFINITION. Which operations are well-formed in a context: the "condition" column of spec/opcode_table.json. -/

namespace Sys2Proof

/-- The pointer is inside the response sequence of the reserved address it stands at (the condition of `READ_BL`). -/
def Ctx.inResp (c : Ctx) : Bool :=
  decide (c.cursor.toNat < (blResp c.par (regClass c.par c.count c.curAddr)).length)

/-- The pointer stands at an LED register and inside its pixel (the condition of `READ_LED`, `fbValid` of R37). -/
def Ctx.inPixel (c : Ctx) : Bool :=
  decide (regClass c.par c.count c.curAddr = .led) && decide (c.cursor.toNat < c.fmt.bpp.toNat)

/-- An operation is well-formed in a context: the state meets the condition of its row, and its bytes can be delivered (R62).
`CMD_WRITE` is well-formed for the payloads that stay with that row: an unknown code, or too few argument bytes. -/
def Instr.wf (c : Ctx) : Instr → Bool
  | .txnEmpty => true
  | .addrSetCmd => true
  | .addrSetLed a => decide (regClass c.par c.count a = .led)
  | .addrSetClamp a => decide (regClass c.par c.count a = .invalid)
  | .addrSetBlIdent => true
  | .addrSetBlReset => true
  | .addrSetBlJump => true
  | .regWrite a data =>
    decide (regClass c.par c.count a = .led) && !data.isEmpty && decide (1 + data.length ≤ c.par.maxTxnLen)
  | .regWriteDrop a data =>
    decide (a ≠ 0) && decide (regClass c.par c.count a ≠ .led) && !data.isEmpty && decide (1 + data.length ≤ c.par.maxTxnLen)
  | .cmdWrite k args =>
    (match c.par.codes.find k with
      | none => true
      | some cmd => decide (args.length < cmd.arity)) && decide (2 + args.length ≤ c.par.maxTxnLen)
  | .readCmd => decide (c.curAddr = 0)
  | .readLed => c.inPixel
  | .readBl => c.inResp
  | .readFix => decide (c.curAddr ≠ 0) && !c.inPixel && !c.inResp
  | .cmdShow => true
  | .cmdClear => true
  | .cmdClearShow => true
  | .cmdCopyAll _ => true
  | .cmdSetLedCount _ => true
  | .cmdSetPixelType _ _ => true
  | .cmdSetBusAddr _ => true
  | .cmdSetDefaultFromIndex _ => true
  | .cmdSetLedColor _ _ _ _ _ => true
  | .cmdSetAllColor _ _ _ _ => true
  | .cmdSetDefaultColor _ _ _ _ => true
  | .cmdPower _ => true
  | .cmdRainbow => true
  | .cmdDeviceReset => true

/-- The "format" column of spec/opcode_table.json. The rows of format CMD are the commands, which arrive as `TXN_CMD` (R60). -/
def Instr.format : Instr → TxnFormat
  | .txnEmpty => .txnEmpty
  | .addrSetCmd => .txnAddr
  | .addrSetLed _ => .txnAddr
  | .addrSetClamp _ => .txnAddr
  | .addrSetBlIdent => .txnAddr
  | .addrSetBlReset => .txnAddr
  | .addrSetBlJump => .txnAddr
  | .regWrite _ _ => .txnWrite
  | .regWriteDrop _ _ => .txnWrite
  | .cmdWrite _ _ => .txnCmd
  | .readCmd => .txnRead
  | .readLed => .txnRead
  | .readBl => .txnRead
  | .readFix => .txnRead
  | .cmdShow => .txnCmd
  | .cmdClear => .txnCmd
  | .cmdClearShow => .txnCmd
  | .cmdCopyAll _ => .txnCmd
  | .cmdSetLedCount _ => .txnCmd
  | .cmdSetPixelType _ _ => .txnCmd
  | .cmdSetBusAddr _ => .txnCmd
  | .cmdSetDefaultFromIndex _ => .txnCmd
  | .cmdSetLedColor _ _ _ _ _ => .txnCmd
  | .cmdSetAllColor _ _ _ _ => .txnCmd
  | .cmdSetDefaultColor _ _ _ _ => .txnCmd
  | .cmdPower _ => .txnCmd
  | .cmdRainbow => .txnCmd
  | .cmdDeviceReset => .txnCmd

end Sys2Proof
end

