-- ==== Sys2Proof/Machine/State.lean ====
section
/-! DEFINITION. The block's state (R12), the machine's state around it (the parameters, the schedule, the observation, the draw
counter), why a step can stop, and the state right after reset. -/

namespace Sys2Proof.Machine

/-- The six deferred signals (R22). -/
inductive Flag where
  | render
  | copy
  | persist
  | settle
  | reset
  | boot
  deriving DecidableEq, Repr

/-- `DFR`, the deferred flag register: six independent 1-bit flags, of which only the names are normative (R22). -/
structure Dfr where
  render  : Bool
  copy    : Bool
  persist : Bool
  settle  : Bool
  reset   : Bool
  boot    : Bool
  deriving DecidableEq, Repr

/-- The control FSM state (R24). -/
inductive Ctrl where
  | ready
  | renderBusy
  | copyFill
  | settleWait
  | persistWrite
  | halt
  | jumped
  deriving DecidableEq, Repr

/-- The watchdog as the block sets it (R28). -/
inductive WdtMode where
  | normal
  | shortArmed
  deriving DecidableEq, Repr

/-- The reasons of a drop (R136). They exist on the observation only. -/
inductive Drop where
  | empty
  | unknownCmd
  | shortArgs
  | indexRange
  | writeRange
  deriving DecidableEq, Repr

/-- The 9-byte configuration record, in the order of its offsets +0 to +8 (R50). -/
structure NvRecord where
  magic   : Byte
  busAddr : Byte
  ptypeHi : Byte
  ptypeLo : Byte
  count   : Byte
  r       : Byte
  g       : Byte
  b       : Byte
  w       : Byte
  deriving DecidableEq, Repr

/-- The fields of the record, one for each row of R50's table. -/
inductive NvField where
  | magic
  | busAddr
  | ptypeHi
  | ptypeLo
  | count
  | r
  | g
  | b
  | w
  deriving DecidableEq, Repr

/-- Frame-buffer contents: cells (index, byte) in one canonical form (`Memory.wf`): indices strictly rising, and no cell that holds
what an unlisted index reads as, 0 (log 12). -/
abbrev Memory := List Host.Cell

/-- The block's event alphabet (R149), and the drop reasons of R7 and R136. -/
inductive Event where
  /-- A bus event arrives: `BusWrite(T)` or `BusRead`. -/
  | bus (e : BusEvent)
  /-- `BusReadData(v)`: the byte a read request is answered with. -/
  | readData (v : Byte)
  /-- `Reset`. -/
  | reset
  /-- `Commit(S, t)`: the logical frame and the pixel type. -/
  | commit (frame : List Byte) (ptype : BitVec 16)
  /-- `NvRead(off) -> v`. -/
  | nvRead (off : Nat) (v : Byte)
  /-- `NvWrite(off, v)`. -/
  | nvWrite (off : Nat) (v : Byte)
  /-- `WdtKick`. -/
  | wdtKick
  /-- `WdtArmShort`. -/
  | wdtArmShort
  /-- `BootJump`. -/
  | bootJump
  /-- `raise Drop(r)`. -/
  | drop (r : Drop)
  deriving DecidableEq, Repr

/-- What the schedule says happens next (R9, R116, R142; log 4): a bus event, a turn of CTRL with the flag it picks if it is in
`READY`, or the reset step. -/
inductive Input where
  | bus (e : BusEvent)
  | ctrl (pick : Flag)
  | reset
  deriving DecidableEq, Repr

/-- The block's state: the rows of R12's table and no other field. -/
structure Block where
  /-- `CFG_BUSADDR` (R13). -/
  cfgBusAddr  : Byte
  /-- `CFG_PTYPE` (R14). -/
  cfgPtype    : BitVec 16
  /-- `CFG_COUNT` (R15). -/
  cfgCount    : Byte
  /-- `CFG_DEFCOLOR` (R16). -/
  cfgDefColor : Color
  /-- `CUR_ADDR` (R18). -/
  curAddr     : Byte
  /-- `CURSOR` (R19). -/
  cursor      : Byte
  /-- `RESP` (R20). -/
  resp        : Byte
  /-- `FB` (R21). -/
  fb          : Memory
  /-- `DFR` (R22). -/
  dfr         : Dfr
  /-- `COPY_IDX` (R23). -/
  copyIdx     : Byte
  /-- `CTRL` (R24). -/
  ctrl        : Ctrl
  /-- `FILL_I` (R25). -/
  fillI       : Byte
  /-- `FILL_N` (R25). -/
  fillN       : Byte
  /-- `FILL_COLOR` (R25). -/
  fillColor   : Color
  /-- `NV_K` (R25). -/
  nvK         : BitVec 4
  /-- `NV_IMG` (R25). -/
  nvImg       : NvRecord
  /-- `PWR_ON` (R26). -/
  pwrOn       : Bool
  /-- `NV`, external: survives reset (R27). -/
  nv          : NvRecord
  /-- `WDT_MODE`, external (R28). -/
  wdtMode     : WdtMode
  deriving DecidableEq, Repr

/-- The machine's state: the block, and beside it what the model needs to run it (INVENTORY.md, '## State'; log 1). -/
structure State extends Block where
  /-- The parameters of R5, arguments of the model: no step writes them (log 2). -/
  par    : Params
  /-- The schedule, next entry first (log 4). -/
  inputs : List Input
  /-- The observation (R9, R149), oldest event first (log 15). -/
  trace  : List Event
  /-- How many free values have been drawn (log 6). -/
  draws  : Nat
  deriving DecidableEq, Repr

/-- Why the machine stops with a fault. The block itself has no fault outcome (R8): no state of the invariant `Safe` reaches one. -/
inductive Fault where
  /-- A frame-buffer index at or above `FB_BYTES`, which does not exist (R21, R58). Raised by `fbStore` and `fbLoad`; safe (log 11). -/
  | fbIndexRange
  /-- A read of a response sequence that has no byte at the cursor (R5 asks for non-empty sequences). Raised by `readBlAt`; safe
  (log 11). -/
  | responseRange
  deriving DecidableEq, Repr

/-- Why the machine refuses. -/
inductive Refusal where
  /-- An instruction without a meaning; no arm of `exec` answers it. Safe. -/
  | notModelled (mnemonic : String)
  /-- An operation in a state that does not meet its row's condition: the decoder never gives it there. Raised by `onCondition`;
  safe (log 10). -/
  | formMismatch
  /-- A parameter value that violates a constraint of R5 (R8; item 20 of 93_implementation_defined.md). Raised by `step`; safe (log 9). -/
  | badParameters
  /-- A write transaction longer than `MAX_TXN_LEN` (item 11 of 93_implementation_defined.md). Raised by `takeBusEvent`; safe (log 9). -/
  | txnTooLong
  /-- `CTRL = JUMPED`: no agent has a step (R132). Raised by `step`; safe (log 8). -/
  | jumped
  deriving DecidableEq, Repr

/-- The outcome of a step or of a meaning. -/
abbrev Result := Host.Outcome State Fault Refusal

/-- What decoding depends on, read off the state (R34, R60, R61). -/
def State.ctx (s : State) : Ctx := ⟨s.par, s.cfgCount, s.cfgPtype, s.curAddr, s.cursor⟩

/-- The machine right after the reset step (R32, R155 to R159) of a block whose NV record does not carry the magic byte, under the
parameters of log 2. `NV` before the first persist is any bytes (R27): zero here, DESIGN CHOICE, log 7, unsafe. -/
def State.reset : State where
  cfgBusAddr  := Params.specDefault.defBusAddr
  cfgPtype    := Params.specDefault.defPixelType
  cfgCount    := Params.specDefault.defLedCount
  cfgDefColor := Params.specDefault.defColor
  curAddr     := 0
  cursor      := 0
  resp        := 0
  fb          := []
  dfr         := ⟨true, false, false, false, false, false⟩
  copyIdx     := 0
  ctrl        := .ready
  fillI       := 0
  fillN       := 0
  fillColor   := ⟨0, 0, 0, 0⟩
  nvK         := 0
  nvImg       := ⟨0, 0, 0, 0, 0, 0, 0, 0, 0⟩
  pwrOn       := Params.specDefault.pwrOnReset
  nv          := ⟨0, 0, 0, 0, 0, 0, 0, 0, 0⟩
  wdtMode     := .normal
  par         := Params.specDefault
  inputs      := []
  trace       := []
  draws       := 0

end Sys2Proof.Machine
end

