-- ==== Sys2Proof/Machine/Ops.lean ====
section
/-! DEFINITION. The named operations over the frame buffer, the registers, the NV record and the observation. The one place where a
frame-buffer index is checked, where the pointer is written, and where a drop is raised. -/

namespace Sys2Proof.Machine

/-! ### Frame-buffer memory -/

/-- The byte at an index. An index that no cell lists reads 0, which is what the reset step leaves there (R158; log 12). -/
def Memory.read : Memory → Nat → Byte
  | [], _ => 0
  | (a, v) :: m, i => if i = a then v else Memory.read m i

/-- Write one byte, keeping the canonical form. -/
def Memory.write : Memory → Nat → Byte → Memory
  | [], i, v => if v = 0 then [] else [(i, v)]
  | (a, u) :: m, i, v =>
    if i < a then (if v = 0 then (a, u) :: m else (i, v) :: (a, u) :: m)
    else if i = a then (if v = 0 then m else (i, v) :: m)
    else (a, u) :: Memory.write m i v

/-- Perform stores in order, so that the last store to an index wins (R42, R84). -/
def Memory.writeAll : Memory → List Host.Cell → Memory
  | m, [] => m
  | m, (i, v) :: st => Memory.writeAll (Memory.write m i v) st

/-- The canonical form: indices strictly rising, no cell that holds 0. -/
abbrev Memory.wf (m : Memory) : Prop :=
  m.Pairwise (fun x y => x.1 < y.1) ∧ ∀ c ∈ m, c.2 ≠ 0

/-! ### Registers -/

/-- `CUR_ADDR <- a; CURSOR <- c` (R18, R19). -/
def State.setPointer (s : State) (a c : Byte) : State := { s with curAddr := a, cursor := c }

/-- `ctrl <- c` (R7). -/
def State.setCtrl (s : State) (c : Ctrl) : State := { s with ctrl := c }

/-- The frame buffer replaced. -/
def State.withFb (s : State) (m : Memory) : State := { s with fb := m }

/-- The draw counter moved past `n` draws. -/
def State.tookDraws (s : State) (n : Nat) : State := { s with draws := s.draws + n }

/-- `emit E(args)` (R7). -/
def State.emit (s : State) (e : Event) : State := { s with trace := s.trace ++ [e] }

/-! ### Guards and ends of a bus operation -/

/-- Run an operation where the state meets its row's condition, and refuse it elsewhere (log 10). -/
def onCondition (cond : Prop) [Decidable cond] (k : Result) : Result :=
  if cond then k else .refused .formMismatch

/-- `raise Drop(r)`: the bus event ends with every element of the block as it was, and the reason is recorded on the observation
only (R7, R137). -/
def raiseDrop (r : Drop) (s : State) : Result := .next (s.emit (.drop r))

/-- Perform stores into the frame buffer and go on; an index outside `FB_BYTES` does not exist and faults (log 11). -/
def fbStore (st : List Host.Cell) (s : State) (k : State → Result) : Result :=
  if ∀ c ∈ st, c.1 < s.par.fbBytes then k (s.withFb (Memory.writeAll s.fb st)) else .fault .fbIndexRange

/-- Go on if every index about to be read exists (log 11). -/
def fbLoad (is : List Nat) (s : State) (k : Result) : Result :=
  if ∀ i ∈ is, i < s.par.fbBytes then k else .fault .fbIndexRange

/-- An executed command leaves the pointer at register 0 (R86). -/
def executed (s : State) : Result := .next (s.setPointer 0 0)

/-- `return v` of a read byte request: the byte goes to the bus (R149 `BusReadData`). -/
def returnByte (v : Byte) (s : State) : Result := .next (s.emit (.readData v))

/-! ### The NV record -/

/-- The offset of a field in the record (R50). -/
def NvField.offset : NvField → Nat
  | .magic => 0
  | .busAddr => 1
  | .ptypeHi => 2
  | .ptypeLo => 3
  | .count => 4
  | .r => 5
  | .g => 6
  | .b => 7
  | .w => 8

/-- The fields in the order of their offsets. -/
def NvField.all : List NvField :=
  [.magic, .busAddr, .ptypeHi, .ptypeLo, .count, .r, .g, .b, .w]

/-- `NV[k]` for the field at `+k` (R50). -/
def NvRecord.get (n : NvRecord) : NvField → Byte
  | .magic => n.magic
  | .busAddr => n.busAddr
  | .ptypeHi => n.ptypeHi
  | .ptypeLo => n.ptypeLo
  | .count => n.count
  | .r => n.r
  | .g => n.g
  | .b => n.b
  | .w => n.w

/-- The record with one byte replaced (R51: single-byte writes). -/
def NvRecord.set (n : NvRecord) (f : NvField) (v : Byte) : NvRecord :=
  match f with
  | .magic => { n with magic := v }
  | .busAddr => { n with busAddr := v }
  | .ptypeHi => { n with ptypeHi := v }
  | .ptypeLo => { n with ptypeLo := v }
  | .count => { n with count := v }
  | .r => { n with r := v }
  | .g => { n with g := v }
  | .b => { n with b := v }
  | .w => { n with w := v }

/-- `NvWrite(NV_BASE + k, v)`: the byte is stored and the event observed (R51, R149). -/
def State.nvWrite (s : State) (f : NvField) (v : Byte) : State :=
  { s with nv := s.nv.set f v }.emit (.nvWrite (s.par.nvBase + f.offset) v)

/-- `img(k)` for the nine fields, computed from the configuration mirror now (R50, R52). -/
def State.nvImage (s : State) : NvRecord where
  magic   := s.par.cfgMagic
  busAddr := s.cfgBusAddr
  ptypeHi := s.cfgPtype.extractLsb' 8 8
  ptypeLo := s.cfgPtype.extractLsb' 0 8
  count   := s.cfgCount
  r       := s.cfgDefColor.r
  g       := s.cfgDefColor.g
  b       := s.cfgDefColor.b
  w       := s.cfgDefColor.w

/-! ### Output levels and codes -/

/-- `PWR_EN_N = NOT PWR_ON` (R26, R147). -/
def State.pwrEnN (s : State) : Bool := !s.pwrOn

/-- `BUS_ADDR`, the level driven for the bus engine (R13, R149). -/
def State.busAddrOut (s : State) : Byte := s.cfgBusAddr

/-- The observation codes of the drop reasons (R136). -/
def Drop.code : Drop → Nat
  | .empty => 0
  | .unknownCmd => 1
  | .shortArgs => 2
  | .indexRange => 3
  | .writeRange => 4

end Sys2Proof.Machine
end

