-- ==== Sys2Proof/Machine/Flags.lean ====
section
/-! DEFINITION. The deferred flag register: its set and clear ports (R22, R113). -/

namespace Sys2Proof.Machine

/-- `DFR.F`. -/
def Dfr.get (d : Dfr) : Flag → Bool
  | .render => d.render
  | .copy => d.copy
  | .persist => d.persist
  | .settle => d.settle
  | .reset => d.reset
  | .boot => d.boot

/-- The register with one flag replaced. -/
def Dfr.put (d : Dfr) (f : Flag) (v : Bool) : Dfr :=
  match f with
  | .render => { d with render := v }
  | .copy => { d with copy := v }
  | .persist => { d with persist := v }
  | .settle => { d with settle := v }
  | .reset => { d with reset := v }
  | .boot => { d with boot := v }

/-- The flags in the order of R22's bit positions. -/
def Flag.all : List Flag := [.render, .copy, .persist, .settle, .reset, .boot]

/-- The pending flags, in the order of R22's table. -/
def Dfr.pending (d : Dfr) : List Flag := Flag.all.filter d.get

/-- `DFR = 0`: no flag is pending. -/
def Dfr.none : Dfr := ⟨false, false, false, false, false, false⟩

/-- The register as its six bits, bit 0 first in R22's table (the positions are the spec's choice, not observable). -/
def Dfr.bits (d : Dfr) : BitVec 6 :=
  BitVec.ofBool d.boot ++ BitVec.ofBool d.reset ++ BitVec.ofBool d.settle ++ BitVec.ofBool d.persist
    ++ BitVec.ofBool d.copy ++ BitVec.ofBool d.render

/-- `set F`: writes 1 whatever the flag held (R113). -/
def State.setFlag (s : State) (f : Flag) : State := { s with dfr := s.dfr.put f true }

/-- `clear F`: writes 0 whatever the flag held (R113). -/
def State.clearFlag (s : State) (f : Flag) : State := { s with dfr := s.dfr.put f false }

/-- The 3-bit code of a control state (R24; not observable). -/
def Ctrl.code : Ctrl → BitVec 3
  | .ready => 0
  | .renderBusy => 1
  | .copyFill => 2
  | .settleWait => 3
  | .persistWrite => 4
  | .halt => 5
  | .jumped => 6

end Sys2Proof.Machine
end

