-- ==== Sys2Proof/Machine/Operands.lean ====
section
/-! DEFINITION. The frame-buffer index calculator, the pointer advance, and the pixel accessors (R37 to R44). -/

namespace Sys2Proof.Machine

/-- The pixel format in force: evaluated at every use (R17). -/
def State.fmt (s : State) : PixelFormat := s.par.pixelDecode.apply s.cfgPtype

/-- `BPP` in force (R17). -/
def State.bpp (s : State) : Nat := s.fmt.bpp.toNat

/-- The class of a register address, against the `CFG_COUNT` in force (R34). -/
def State.classOf (s : State) (a : Byte) : RegClass := regClass s.par s.cfgCount a

/-! ### Index calculator and advance -/

/-- `fbIndex(A, c) = (A - 1) * BPP + c` (R37). -/
def fbIndex (bpp : Nat) (a c : Byte) : Nat := (a.toNat - 1) * bpp + c.toNat

/-- `fbValid(A, c)` (R37). -/
abbrev State.fbValid (s : State) (a c : Byte) : Prop :=
  1 ≤ a.toNat ∧ a.toNat ≤ s.cfgCount.toNat ∧ c.toNat < s.bpp

/-- `advance(A, c)` (R39). -/
def advance (count : Byte) (bpp : Nat) (a c : Byte) : Byte × Byte :=
  if c.toNat + 1 < bpp then (a, c + 1)
  else if a = count then (1, 0)
  else (a + 1, 0)

/-- The loop of `REG_WRITE` (R84): the stores in order, and the pointer left behind. -/
def regWalk (count : Byte) (bpp : Nat) : Byte → Byte → List Byte → List Host.Cell × (Byte × Byte)
  | a, c, [] => ([], (a, c))
  | a, c, d :: ds =>
    let p := advance count bpp a c
    let rest := regWalk count bpp p.1 p.2 ds
    ((fbIndex bpp a c, d) :: rest.1, rest.2)

/-! ### Pixel accessors -/

/-- One channel of a pixel write: a store, or none when the offset lies outside the pixel (R42). -/
def channelStore (bpp base : Nat) (off : BitVec 2) (v : Byte) : List Host.Cell :=
  if off.toNat < bpp then [(base + off.toNat, v)] else []

/-- The stores of `PixelWrite(p, c)`, in the order R, G, B, W (R42). -/
def pixelStores (f : PixelFormat) (p : Nat) (c : Color) : List Host.Cell :=
  let n := f.bpp.toNat
  channelStore n (p * n) f.offR c.r ++ channelStore n (p * n) f.offG c.g ++ channelStore n (p * n) f.offB c.b
    ++ (if n = 4 then channelStore n (p * n) f.offW c.w else [])

/-- The indices `PixelRead(p)` may read: the pixel's bytes (R43, R36). -/
def pixelIndices (f : PixelFormat) (p : Nat) : List Nat :=
  (List.range f.bpp.toNat).map (fun j => p * f.bpp.toNat + j)

/-- One channel of a pixel read: 0 when the offset lies outside the pixel (R43). -/
def channelRead (m : Memory) (bpp base : Nat) (off : BitVec 2) : Byte :=
  if off.toNat < bpp then Memory.read m (base + off.toNat) else 0

/-- `PixelRead(p)` (R43). -/
def pixelRead (f : PixelFormat) (m : Memory) (p : Nat) : Color :=
  let n := f.bpp.toNat
  { r := channelRead m n (p * n) f.offR
    g := channelRead m n (p * n) f.offG
    b := channelRead m n (p * n) f.offB
    w := if n = 4 then channelRead m n (p * n) f.offW else 0 }

/-- The stores of `FillLogical(c)` over `count` pixels (R44). -/
def fillStores (f : PixelFormat) (count : Nat) (c : Color) : List Host.Cell :=
  (List.range count).flatMap (fun p => pixelStores f p c)

/-- The number of logical bytes, `CFG_COUNT * BPP` (R44). -/
def State.logicalBytes (s : State) : Nat := s.cfgCount.toNat * s.bpp

/-- The stores of `ZeroLogical()` (R44). -/
def zeroStores (n : Nat) : List Host.Cell := (List.range n).map (fun i => (i, 0))

/-- The stores of the pattern generator over the logical bytes: byte `i` is draw number `start + i` (R108, log 6). -/
def rainbowStores (start n : Nat) : List Host.Cell := (List.range n).map (fun i => (i, Config.freeByte (start + i)))

/-- The logical frame `[FB[0], ..., FB[CFG_COUNT * BPP - 1]]` (R118). -/
def State.logicalFrame (s : State) : List Byte := (List.range s.logicalBytes).map (Memory.read s.fb)

/-! ### Arguments -/

/-- `clamp(v, 1, MAX_LEDS)` (R15, R100, R157). -/
def clampCount (p : Params) (v : Byte) : Byte := BitVec.ofNat 8 (min (max v.toNat 1) p.maxLeds)

end Sys2Proof.Machine
end

