-- ==== Sys2Proof/Machine/Reset.lean ====
section
/-! DEFINITION. The reset step, the block's only recovery (R153 to R162), and the entry into HALT that forces it (R131). -/

namespace Sys2Proof.Machine

/-- Entering HALT (R131): the watchdog is armed short and no longer kicked. -/
def State.enterHalt (s : State) : State :=
  ({ s with wdtMode := .shortArmed }.emit .wdtArmShort).setCtrl .halt

/-- The nine reads of the record at boot, in order (R155). -/
def State.nvReads (s : State) : List Event :=
  NvField.all.map (fun f => .nvRead (s.par.nvBase + f.offset) (s.nv.get f))

/-- Configuration load with the magic check (R156) and the count clamp (R157). -/
def State.loadConfig (s : State) : State :=
  if s.nv.magic = s.par.cfgMagic then
    { s with
      cfgBusAddr := s.nv.busAddr
      cfgPtype := s.nv.ptypeHi ++ s.nv.ptypeLo
      cfgCount := clampCount s.par s.nv.count
      cfgDefColor := ⟨s.nv.r, s.nv.g, s.nv.b, s.nv.w⟩ }
  else
    { s with
      cfgBusAddr := s.par.defBusAddr
      cfgPtype := s.par.defPixelType
      cfgCount := s.par.defLedCount
      cfgDefColor := s.par.defColor }

/-- The remaining reset values (R159), and the frame buffer all zero (R158, first line). -/
def State.clearVolatile (s : State) : State :=
  { s with
    curAddr := 0
    cursor := 0
    resp := 0
    fb := []
    dfr := ⟨true, false, false, false, false, false⟩
    copyIdx := 0
    ctrl := .ready
    fillI := 0
    fillN := 0
    fillColor := ⟨0, 0, 0, 0⟩
    nvK := 0
    nvImg := ⟨0, 0, 0, 0, 0, 0, 0, 0, 0⟩
    pwrOn := s.par.pwrOnReset
    wdtMode := .normal }

/-- The reset step (R153): one atomic step; only `NV` survives (R154), and boot never writes it (R160). -/
def resetStep (s : State) : Result :=
  let t := ({ s with trace := s.trace ++ Event.reset :: s.nvReads }.loadConfig).clearVolatile
  fbStore (fillStores t.fmt t.cfgCount.toNat t.cfgDefColor) t .next

end Sys2Proof.Machine
end

