-- ==== Sys2Proof/Machine/Control.lean ====
section
/-! DEFINITION. The steps of CTRL, the control FSM that services the deferred flags (spec/42_deferred_control.md). -/

namespace Sys2Proof.Machine

/-! ### Service starts (guard: chosen in READY) -/

/-- `RENDER` start (R118): one atomic snapshot of the logical frame is committed. -/
def startRender (s : State) : Result :=
  fbLoad (List.range s.logicalBytes) s
    (.next ((s.emit (.commit s.logicalFrame s.cfgPtype)).setCtrl .renderBusy))

/-- `COPY` start (R120): the colour is read at service time, and the count is latched. -/
def startCopy (s : State) : Result :=
  fbLoad (pixelIndices s.fmt s.copyIdx.toNat) s
    (.next ({ s with
      fillColor := pixelRead s.fmt s.fb s.copyIdx.toNat
      fillN := s.cfgCount
      fillI := 0 }.setCtrl .copyFill))

/-- `SETTLE` start (R123). -/
def startSettle (s : State) : Result := .next (s.setCtrl .settleWait)

/-- `PERSIST` start (R125): the record image is snapshotted. -/
def startPersist (s : State) : Result :=
  .next ({ s with nvImg := s.nvImage, nvK := 0 }.setCtrl .persistWrite)

/-- `RESET` service (R128). -/
def startReset (s : State) : Result := .next ((s.clearFlag .reset).enterHalt)

/-- `BOOT` service (R129). -/
def startBoot (s : State) : Result := .next (((s.clearFlag .boot).emit .bootJump).setCtrl .jumped)

/-- A service choice (R116): the watchdog is kicked (R130) and the chosen flag's start rule performed, in one step. -/
def startService (f : Flag) (s : State) : Result :=
  match f with
  | .render => startRender (s.emit .wdtKick)
  | .copy => startCopy (s.emit .wdtKick)
  | .persist => startPersist (s.emit .wdtKick)
  | .settle => startSettle (s.emit .wdtKick)
  | .reset => startReset (s.emit .wdtKick)
  | .boot => startBoot (s.emit .wdtKick)

/-! ### Steps inside a service -/

/-- `RENDER` done (R119). -/
def renderDone (s : State) : Result := .next ((s.clearFlag .render).setCtrl .ready)

/-- `COPY` fill (R121), one pixel with the format in force now, and `COPY` done (R122). `FILL_I > FILL_N` has no row in R115: CTRL has
no step (log 18). -/
def copyFillStep (s : State) : Result :=
  if s.fillI.toNat < s.fillN.toNat then
    fbStore (pixelStores s.fmt s.fillI.toNat s.fillColor) s (fun t => .next { t with fillI := t.fillI + 1 })
  else if s.fillI = s.fillN then .next ((s.clearFlag .copy).setCtrl .ready)
  else .next s

/-- `SETTLE` done (R124). -/
def settleDone (s : State) : Result := .next (((s.setFlag .render).clearFlag .settle).setCtrl .ready)

/-- The field and byte of the persist service's write number `k` (R126): byte 0 is first invalidated, then offsets 1 to 8 take the
snapshot, and byte 0 takes the magic last. -/
def persistWriteAt (p : Params) (img : NvRecord) (k : BitVec 4) : Option (NvField × Byte) :=
  match k.toNat with
  | 0 => some (.magic, p.cfgMagic ^^^ 0xFF)
  | 1 => some (.busAddr, img.busAddr)
  | 2 => some (.ptypeHi, img.ptypeHi)
  | 3 => some (.ptypeLo, img.ptypeLo)
  | 4 => some (.count, img.count)
  | 5 => some (.r, img.r)
  | 6 => some (.g, img.g)
  | 7 => some (.b, img.b)
  | 8 => some (.w, img.w)
  | 9 => some (.magic, img.magic)
  | _ => none

/-- `PERSIST` byte step (R126) and `PERSIST` done (R127). `NV_K > 10` has no row in R115: CTRL has no step (log 18). -/
def persistStep (s : State) : Result :=
  match persistWriteAt s.par s.nvImg s.nvK with
  | some (f, v) => .next { s.nvWrite f v with nvK := s.nvK + 1 }
  | none => if s.nvK = 10 then .next ((s.clearFlag .persist).enterHalt) else .next s

/-- The CTRL step of a state that is inside a service (R115). In READY, HALT and JUMPED no service is in progress. -/
def ctrlContinue (s : State) : Result :=
  match s.ctrl with
  | .ready => .next s
  | .renderBusy => renderDone s
  | .copyFill => copyFillStep s
  | .settleWait => settleDone s
  | .persistWrite => persistStep s
  | .halt => .next s
  | .jumped => .next s

/-- A turn of CTRL (R115). In READY it picks `pick` if that flag is pending (R116). Where CTRL has no step (R117, R131), nothing
happens (log 4). -/
def ctrlStep (pick : Flag) (s : State) : Result :=
  match s.ctrl with
  | .ready => if s.dfr.get pick then startService pick s else .next s
  | .renderBusy => ctrlContinue s
  | .copyFill => ctrlContinue s
  | .settleWait => ctrlContinue s
  | .persistWrite => ctrlContinue s
  | .halt => ctrlContinue s
  | .jumped => ctrlContinue s

/-- The block moving by itself when the schedule offers nothing (log 4): CTRL takes its step if it has one, with a free choice among
pending flags (R116, log 5); in HALT the watchdog expires (R131, R133); in READY with `DFR = 0` the block waits (R117, R148). -/
def quietStep (s : State) : Result :=
  match s.ctrl with
  | .ready =>
    match s.dfr.pending with
    | [] => .next s
    | [f] => startService f s
    | f :: rest =>
      startService ((f :: rest).getD (Config.serviceChoice s.draws % (rest.length + 1)) f) (s.tookDraws 1)
  | .renderBusy => ctrlContinue s
  | .copyFill => ctrlContinue s
  | .settleWait => ctrlContinue s
  | .persistWrite => ctrlContinue s
  | .halt => resetStep s
  | .jumped => ctrlContinue s

end Sys2Proof.Machine
end

