-- ==== Sys2Proof/Machine/Commands.lean ====
section
/-! DEFINITION. The meanings of the fourteen commands and of the dispatcher `CMD_WRITE` (spec/41_command_dispatcher.md, R86). -/

namespace Sys2Proof.Machine

/-- The dispatcher's index check (R93, D_RANGE): a pixel index at or above `CFG_COUNT` drops the command. -/
def withIndex (i : Byte) (s : State) (k : Result) : Result :=
  if i.toNat < s.cfgCount.toNat then k else raiseDrop .indexRange s

/-! ### Frame and render commands -/

/-- `CMD_SHOW` (R96). -/
def execCmdShow (s : State) : Result := executed (s.setFlag .render)

/-- `CMD_CLEAR` (R97). -/
def execCmdClear (s : State) : Result := fbStore (zeroStores s.logicalBytes) s executed

/-- `CMD_CLEAR_SHOW` (R98). -/
def execCmdClearShow (s : State) : Result :=
  fbStore (zeroStores s.logicalBytes) s (fun t => executed (t.setFlag .render))

/-- `CMD_COPY_ALL` (R99): the index is stored, the colour is not read here. -/
def execCmdCopyAll (i : Byte) (s : State) : Result :=
  withIndex i s (executed ({ s with copyIdx := i }.setFlag .copy))

/-! ### Configuration commands -/

/-- `CMD_SET_LED_COUNT` (R100): the count is clamped, never dropped. -/
def execCmdSetLedCount (n : Byte) (s : State) : Result :=
  executed ({ s with cfgCount := clampCount s.par n }.setFlag .persist)

/-- `CMD_SET_PIXEL_TYPE` (R101, R68: high byte first). -/
def execCmdSetPixelType (hi lo : Byte) (s : State) : Result :=
  executed ({ s with cfgPtype := hi ++ lo }.setFlag .persist)

/-- `CMD_SET_BUS_ADDR` (R102): every byte is stored as it is. -/
def execCmdSetBusAddr (a : Byte) (s : State) : Result :=
  executed ({ s with cfgBusAddr := a }.setFlag .persist)

/-- `CMD_SET_DEFAULT_FROM_INDEX` (R103): the colour is read now. -/
def execCmdSetDefaultFromIndex (i : Byte) (s : State) : Result :=
  withIndex i s
    (fbLoad (pixelIndices s.fmt i.toNat) s
      (executed ({ s with cfgDefColor := pixelRead s.fmt s.fb i.toNat }.setFlag .persist)))

/-- `CMD_SET_LED_COLOR` (R104): one pixel; no flag is set. -/
def execCmdSetLedColor (i r g b w : Byte) (s : State) : Result :=
  withIndex i s (fbStore (pixelStores s.fmt i.toNat ⟨r, g, b, w⟩) s executed)

/-- `CMD_SET_ALL_COLOR` (R105): every logical pixel (C3). -/
def execCmdSetAllColor (r g b w : Byte) (s : State) : Result :=
  fbStore (fillStores s.fmt s.cfgCount.toNat ⟨r, g, b, w⟩) s executed

/-- `CMD_SET_DEFAULT_COLOR` (R106): the frame buffer is not changed. -/
def execCmdSetDefaultColor (r g b w : Byte) (s : State) : Result :=
  executed ({ s with cfgDefColor := ⟨r, g, b, w⟩ }.setFlag .persist)

/-! ### Device commands -/

/-- `CMD_POWER` (R107, R70): on iff the byte is not 0; "off" cancels nothing. -/
def execCmdPower (v : Byte) (s : State) : Result :=
  if v ≠ 0 then executed ({ s with pwrOn := true }.setFlag .settle) else executed { s with pwrOn := false }

/-- `CMD_RAINBOW` (R108): every logical byte takes a draw of its own (log 6). -/
def execCmdRainbow (s : State) : Result :=
  fbStore (rainbowStores s.draws s.logicalBytes) s
    (fun t => executed ((t.tookDraws s.logicalBytes).setFlag .render))

/-- `CMD_DEVICE_RESET` (R109): the free-memory byte is a draw (log 6); the reset is deferred through its flag (C5). -/
def execCmdDeviceReset (s : State) : Result :=
  executed (({ s with resp := Config.freeByte s.draws }.tookDraws 1).setFlag .reset)

/-! ### The dispatcher -/

/-- `Exec_c` with the index check of D_RANGE before it (R93), on the first `arity` argument bytes (R71). -/
def runCommand (c : Cmd) (args : List Byte) (s : State) : Result :=
  match c with
  | .cShow => execCmdShow s
  | .cClear => execCmdClear s
  | .cClearShow => execCmdClearShow s
  | .cCopyAll => execCmdCopyAll (argByte args 0) s
  | .cSetLedCount => execCmdSetLedCount (argByte args 0) s
  | .cSetPixelType => execCmdSetPixelType (argByte args 0) (argByte args 1) s
  | .cSetBusAddr => execCmdSetBusAddr (argByte args 0) s
  | .cSetDefaultFromIndex => execCmdSetDefaultFromIndex (argByte args 0) s
  | .cSetLedColor =>
    execCmdSetLedColor (argByte args 0) (argByte args 1) (argByte args 2) (argByte args 3) (argByte args 4) s
  | .cSetAllColor => execCmdSetAllColor (argByte args 0) (argByte args 1) (argByte args 2) (argByte args 3) s
  | .cSetDefaultColor => execCmdSetDefaultColor (argByte args 0) (argByte args 1) (argByte args 2) (argByte args 3) s
  | .cPower => execCmdPower (argByte args 0) s
  | .cRainbow => execCmdRainbow s
  | .cDeviceReset => execCmdDeviceReset s

/-- `CMD_WRITE` (R86): `Dispatch(P)` of R93, the checks in the order code, arity, index (R94). -/
def execCmdWrite (k : Byte) (args : List Byte) (s : State) : Result :=
  match s.par.codes.find k with
  | none => raiseDrop .unknownCmd s
  | some c => if args.length < c.arity then raiseDrop .shortArgs s else runCommand c args s

end Sys2Proof.Machine
end

