-- ==== Sys2Proof/Machine/RegisterDecoder.lean ====
section
/-! DEFINITION. The meanings of the register decoder's operations (spec/40_register_decoder.md): TXN_EMPTY, ADDR_SET_*, REG_WRITE,
REG_WRITE_DROP and READ_*. -/

namespace Sys2Proof.Machine

/-- `TXN_EMPTY` (R77). -/
def execTxnEmpty (s : State) : Result := raiseDrop .empty s

/-- `ADDR_SET_CMD` (R78). -/
def execAddrSetCmd (s : State) : Result := .next (s.setPointer 0 0)

/-- `ADDR_SET_LED` (R79; "set the current address [to A] and the cursor to 0", C1). -/
def execAddrSetLed (a : Byte) (s : State) : Result :=
  onCondition (s.classOf a = .led) (.next (s.setPointer a 0))

/-- `ADDR_SET_CLAMP` (R80): an invalid address is clamped to register 1. -/
def execAddrSetClamp (a : Byte) (s : State) : Result :=
  onCondition (s.classOf a = .invalid) (.next (s.setPointer 1 0))

/-- `ADDR_SET_BL_IDENT` (R81). -/
def execAddrSetBlIdent (s : State) : Result := .next (s.setPointer s.par.blAddrIdent 0)

/-- `ADDR_SET_BL_RESET` (R82): the reset request is deferred through its flag. -/
def execAddrSetBlReset (s : State) : Result := .next ((s.setPointer s.par.blAddrReset 0).setFlag .reset)

/-- `ADDR_SET_BL_JUMP` (R83): the jump request is deferred through its flag (C9). -/
def execAddrSetBlJump (s : State) : Result := .next ((s.setPointer s.par.blAddrJump 0).setFlag .boot)

/-- `REG_WRITE` (R84): the data bytes from cursor 0 of register `a` on, with auto-increment and wrap; no flag is set. -/
def execRegWrite (a : Byte) (data : List Byte) (s : State) : Result :=
  onCondition (s.classOf a = .led ∧ data ≠ [])
    (let walk := regWalk s.cfgCount s.bpp a 0 data
     fbStore walk.1 s (fun t => .next (t.setPointer walk.2.1 walk.2.2)))

/-- `REG_WRITE_DROP` (R85). -/
def execRegWriteDrop (a : Byte) (data : List Byte) (s : State) : Result :=
  onCondition (a ≠ 0 ∧ s.classOf a ≠ .led ∧ data ≠ []) (raiseDrop .writeRange s)

/-- R88 at the pointer the state holds: the byte, and the pointer advanced. -/
def readLedAt (s : State) : Result :=
  let i := fbIndex s.bpp s.curAddr s.cursor
  let p := advance s.cfgCount s.bpp s.curAddr s.cursor
  fbLoad [i] s (returnByte (Memory.read s.fb i) (s.setPointer p.1 p.2))

/-- R89 at the pointer the state holds: the byte of the response sequence, and the cursor advanced modulo its length. -/
def readBlAt (s : State) : Result :=
  let l := blResp s.par (s.classOf s.curAddr)
  match l[s.cursor.toNat]? with
  | some v => returnByte v (s.setPointer s.curAddr (BitVec.ofNat 8 ((s.cursor.toNat + 1) % l.length)))
  | none => .fault .responseRange

/-- `READ_CMD` (R87): `RESP`; no block state changes. -/
def execReadCmd (s : State) : Result := onCondition (s.curAddr = 0) (returnByte s.resp s)

/-- `READ_LED` (R88). -/
def execReadLed (s : State) : Result := onCondition (s.ctx.inPixel = true) (readLedAt s)

/-- `READ_BL` (R89). -/
def execReadBl (s : State) : Result := onCondition (s.ctx.inResp = true) (readBlAt s)

/-- `READ_FIX` (R90): a read with an inconsistent pointer. -/
def execReadFix (s : State) : Result :=
  onCondition (s.curAddr ≠ 0 ∧ s.ctx.inPixel = false ∧ s.ctx.inResp = false)
    (match s.classOf s.curAddr with
      | .blIdent => readBlAt (s.setPointer s.curAddr 0)
      | .blReset => readBlAt (s.setPointer s.curAddr 0)
      | .blJump => readBlAt (s.setPointer s.curAddr 0)
      | .cmd => readLedAt (s.setPointer 1 0)
      | .led => readLedAt (s.setPointer 1 0)
      | .invalid => readLedAt (s.setPointer 1 0))

end Sys2Proof.Machine
end

