-- ==== Sys2Proof/Machine/Dispatch.lean ====
section
/-! DEFINITION. The operation a bus event carries, dispatched to its meaning: one arm per row of spec/opcode_table.json. -/

namespace Sys2Proof.Machine

def exec (i : Instr) (s : State) : Host.Outcome State Fault Refusal :=
  match i with
  | .txnEmpty => Sys2Proof.Machine.execTxnEmpty s
  | .addrSetCmd => Sys2Proof.Machine.execAddrSetCmd s
  | .addrSetLed a => Sys2Proof.Machine.execAddrSetLed a s
  | .addrSetClamp a => Sys2Proof.Machine.execAddrSetClamp a s
  | .addrSetBlIdent => Sys2Proof.Machine.execAddrSetBlIdent s
  | .addrSetBlReset => Sys2Proof.Machine.execAddrSetBlReset s
  | .addrSetBlJump => Sys2Proof.Machine.execAddrSetBlJump s
  | .regWrite a data => Sys2Proof.Machine.execRegWrite a data s
  | .regWriteDrop a data => Sys2Proof.Machine.execRegWriteDrop a data s
  | .cmdWrite k args => Sys2Proof.Machine.execCmdWrite k args s
  | .readCmd => Sys2Proof.Machine.execReadCmd s
  | .readLed => Sys2Proof.Machine.execReadLed s
  | .readBl => Sys2Proof.Machine.execReadBl s
  | .readFix => Sys2Proof.Machine.execReadFix s
  | .cmdShow => Sys2Proof.Machine.execCmdShow s
  | .cmdClear => Sys2Proof.Machine.execCmdClear s
  | .cmdClearShow => Sys2Proof.Machine.execCmdClearShow s
  | .cmdCopyAll x => Sys2Proof.Machine.execCmdCopyAll x s
  | .cmdSetLedCount n => Sys2Proof.Machine.execCmdSetLedCount n s
  | .cmdSetPixelType hi lo => Sys2Proof.Machine.execCmdSetPixelType hi lo s
  | .cmdSetBusAddr a => Sys2Proof.Machine.execCmdSetBusAddr a s
  | .cmdSetDefaultFromIndex x => Sys2Proof.Machine.execCmdSetDefaultFromIndex x s
  | .cmdSetLedColor x r g b w => Sys2Proof.Machine.execCmdSetLedColor x r g b w s
  | .cmdSetAllColor r g b w => Sys2Proof.Machine.execCmdSetAllColor r g b w s
  | .cmdSetDefaultColor r g b w => Sys2Proof.Machine.execCmdSetDefaultColor r g b w s
  | .cmdPower v => Sys2Proof.Machine.execCmdPower v s
  | .cmdRainbow => Sys2Proof.Machine.execCmdRainbow s
  | .cmdDeviceReset => Sys2Proof.Machine.execCmdDeviceReset s

end Sys2Proof.Machine
end

