-- ==== Sys2Proof/Machine/Agents.lean ====
section
/-! DEFINITION. What an entry of the schedule does: a BUS step, a turn of CTRL, or the reset step (R9). -/

namespace Sys2Proof.Machine

/-- A BUS step (R76, R140): the event is observed, decoded in the state it finds, and performed, in one step. -/
def takeBusEvent (e : BusEvent) (s : State) : Result :=
  match decode s.ctx e with
  | .ok i => exec i (s.emit (.bus e))
  | .error .txnTooLong => .refused .txnTooLong

/-- One entry of the schedule (R9, R142). -/
def takeInput (x : Input) (s : State) : Result :=
  match x with
  | .bus e => takeBusEvent e s
  | .ctrl pick => ctrlStep pick s
  | .reset => resetStep s

end Sys2Proof.Machine
end

