-- ==== Sys2Proof/Machine/Step.lean ====
section
/-! DEFINITION. One step of the machine, and the placing of an operation where the next step takes it from. -/

namespace Sys2Proof.Machine

/-- One step. After the hand-over to the bootloader no agent has a step (R132, log 8); a parameter value outside R5 is refused (R8,
log 9); else the next entry of the schedule is taken, or, with none left, the block moves by itself (log 4). -/
def step (s : State) : Host.Outcome State Fault Refusal :=
  if s.ctrl = .jumped then .refused .jumped
  else if s.par.wf then
    match s.inputs with
    | [] => quietStep s
    | x :: rest => takeInput x { s with inputs := rest }
  else .refused .badParameters

/-- The state with the write transaction of a table word placed first in the schedule, where `step` takes its next bus event
(log 13, log 16). -/
def State.withFetchWord (s : State) (nbits w : Nat) : State :=
  { s with inputs := .bus (.write (tableTransaction nbits w)) :: s.inputs }

end Sys2Proof.Machine
end

