-- ==== Sys2Proof/Safety.lean ====
section
/-! DEFINITION. The terms claims use about stores and the observation, and the states the block can be in: the invariants of R15, R23,
R25, R28, R29, R30 and of the persist service, as one predicate. -/

namespace Sys2Proof.Machine

/-! ### The terms claims use -/

/-- The byte the last of a list of stores puts at an index, if one of them does. -/
def lastStore : List Host.Cell → Nat → Option Byte
  | [], _ => none
  | (a, v) :: st, i => (lastStore st i).or (if i = a then some v else none)

/-- What an index reads as after a list of stores: the last store to it, or what it read as before. -/
def storedByte (m : Memory) (st : List Host.Cell) (i : Nat) : Byte := (lastStore st i).getD (Memory.read m i)

/-- The bytes returned to the bus master, in order (R149 `BusReadData`). -/
def returnedBytes (tr : List Event) : List Byte :=
  tr.filterMap fun e => match e with
    | .readData v => some v
    | .bus _ => none
    | .reset => none
    | .commit _ _ => none
    | .nvRead _ _ => none
    | .nvWrite _ _ => none
    | .wdtKick => none
    | .wdtArmShort => none
    | .bootJump => none
    | .drop _ => none

/-- `n` steps, stopping at the first fault or refusal. -/
def run : Nat → State → Result
  | 0, s => .next s
  | n + 1, s =>
    match step s with
    | .next t => run n t
    | .fault r => .fault r
    | .refused r => .refused r

/-- The flag a command sets, R110's table: the second argument is the command's argument bytes (`CMD_POWER` sets `SETTLE` only if
its byte is not 0). -/
def commandFlag : Cmd → List Byte → Option Flag
  | .cShow, _ => some .render
  | .cClear, _ => none
  | .cClearShow, _ => some .render
  | .cCopyAll, _ => some .copy
  | .cSetLedCount, _ => some .persist
  | .cSetPixelType, _ => some .persist
  | .cSetBusAddr, _ => some .persist
  | .cSetDefaultFromIndex, _ => some .persist
  | .cSetLedColor, _ => none
  | .cSetAllColor, _ => none
  | .cSetDefaultColor, _ => some .persist
  | .cPower, args => if argByte args 0 = 0 then none else some .settle
  | .cRainbow, _ => some .render
  | .cDeviceReset, _ => some .reset

/-- The three commands whose first argument is a pixel index (R93). -/
def takesIndex : Cmd → Bool
  | .cShow => false
  | .cClear => false
  | .cClearShow => false
  | .cCopyAll => true
  | .cSetLedCount => false
  | .cSetPixelType => false
  | .cSetBusAddr => false
  | .cSetDefaultFromIndex => true
  | .cSetLedColor => true
  | .cSetAllColor => false
  | .cSetDefaultColor => false
  | .cPower => false
  | .cRainbow => false
  | .cDeviceReset => false

/-- The channel offsets are a permutation of `0..BPP-1` (R43). -/
abbrev offsetsPermute (f : PixelFormat) : Prop :=
  f.offR ≠ f.offG ∧ f.offR ≠ f.offB ∧ f.offG ≠ f.offB ∧ f.offR.toNat < f.bpp.toNat ∧ f.offG.toNat < f.bpp.toNat
    ∧ f.offB.toNat < f.bpp.toNat ∧ (f.bpp = .four → f.offW ≠ f.offR ∧ f.offW ≠ f.offG ∧ f.offW ≠ f.offB)

/-- The next step is CTRL's: its turn is scheduled, or nothing is and the block moves by itself, outside `HALT` (log 4). -/
abbrev State.ctrlMoves (s : State) : Prop :=
  (∃ f rest, s.inputs = .ctrl f :: rest) ∨ s.inputs = [] ∧ s.ctrl ≠ .halt

/-- The next step is the reset step: it is scheduled in a state in which R153 enables it, or nothing is and the watchdog expires in `HALT`
(R131, log 4). -/
abbrev State.resetMoves (s : State) : Prop :=
  (s.ctrl ≠ .jumped ∧ ∃ rest, s.inputs = .reset :: rest) ∨ s.ctrl = .halt ∧ s.inputs = []

/-! ### The states the block can be in -/

/-- The pointer invariant (R29). -/
def State.pointerOk (s : State) : Prop :=
  match s.classOf s.curAddr with
  | .cmd => s.cursor = 0
  | .led => s.cursor.toNat < s.bpp
  | .blIdent => s.cursor.toNat < s.par.blRespIdent.length
  | .blReset => s.cursor.toNat < s.par.blRespReset.length
  | .blJump => s.cursor.toNat < s.par.blRespJump.length
  | .invalid => False

/-- The record while the persist service is writing it (R126, R165): nothing written yet; or byte 0 unequal to `CFG_MAGIC`; or all of
the snapshot written. -/
def State.persistOk (s : State) : Prop :=
  s.nvK.toNat ≤ 10 ∧ s.nvImg.magic = s.par.cfgMagic
    ∧ (1 ≤ s.nvK.toNat → s.nvK.toNat ≤ 9 → s.nv.magic = s.par.cfgMagic ^^^ 0xFF)
    ∧ (∀ f : NvField, f ≠ .magic → f.offset < s.nvK.toNat → s.nv.get f = s.nvImg.get f)
    ∧ (s.nvK.toNat = 10 → s.nv = s.nvImg)

/-- What holds of every state the block reaches. -/
structure Safe (s : State) : Prop where
  /-- The parameters meet R5. -/
  params   : s.par.wf = true
  /-- `1 <= CFG_COUNT <= MAX_LEDS` (R15, R30). -/
  count    : 1 ≤ s.cfgCount.toNat ∧ s.cfgCount.toNat ≤ s.par.maxLeds
  /-- R29. -/
  pointer  : s.pointerOk
  /-- The frame buffer is in its canonical form and holds nothing at or above `FB_BYTES` (R21). -/
  fbForm   : Memory.wf s.fb
  fbRange  : ∀ c ∈ s.fb, c.1 < s.par.fbBytes
  /-- `COPY_IDX` names a pixel of the buffer (R23, R120). -/
  copyIdx  : s.copyIdx.toNat < s.par.maxLeds
  /-- The flag of a service in progress is pending: BUS clears no flag (R134). -/
  busy     : (s.ctrl = .renderBusy → s.dfr.render = true) ∧ (s.ctrl = .copyFill → s.dfr.copy = true)
               ∧ (s.ctrl = .settleWait → s.dfr.settle = true) ∧ (s.ctrl = .persistWrite → s.dfr.persist = true)
  /-- The fill stays in the buffer (R25, R121). -/
  fill     : s.ctrl = .copyFill → s.fillI.toNat ≤ s.fillN.toNat ∧ 1 ≤ s.fillN.toNat ∧ s.fillN.toNat ≤ s.par.maxLeds
  /-- R126, R165. -/
  persist  : s.ctrl = .persistWrite → s.persistOk
  /-- `WDT_MODE` is `SHORT_ARMED` in `HALT` and only there (R28, R131). -/
  watchdog : s.wdtMode = .shortArmed ↔ s.ctrl = .halt

end Sys2Proof.Machine
end

