-- ==== Sys2Proof/Certificates/Slice0/Obligations.lean ====
section
/-! DEFINITION. The statements for the provers. Each docstring names the rules of spec/ it formalises. -/

open Sys2Proof Sys2Proof.Machine

/-! ### Decoding and the step -/

/-- R76: BUS event dispatch. A bus event at the head of the schedule is decoded in the state it finds and performed. What the step adds
is the model's (log 4, log 15): the entry leaves the schedule and the event is observed. -/
def Obligations.StepRunsTheDecodedOperation : Prop :=
  ∀ (s : State) (e : BusEvent) (rest : List Input) (i : Instr),
    s.par.wf = true → s.ctrl ≠ .jumped → s.inputs = .bus e :: rest → decode s.ctx e = .ok i →
      step s = exec i { s with inputs := rest, trace := s.trace ++ [.bus e] }

/-- R60, R64, R65, R66: words written out from the encodings, at the default code map. -/
def Obligations.WrittenOutWordsDecode : Prop :=
  ∀ c : Ctx, c.par.codes = CmdCodes.specDefault → 7 ≤ c.par.maxTxnLen → 4 ≤ c.count.toNat →
    decode c (.write []) = .ok .txnEmpty ∧
    decode c (.write [0b00000000]) = .ok .addrSetCmd ∧
    decode c (.write [0b00000011]) = .ok (.addrSetLed 3) ∧
    decode c (.write [0b00000100, 0xAA]) = .ok (.regWrite 4 [0xAA]) ∧
    decode c (.write [0b00000000, 0b00000001]) = .ok .cmdShow ∧
    decode c (.write [0b00000000, 0b00000100, 0b00000011]) = .ok (.cmdCopyAll 3) ∧
    decode c (.write [0b00000000, 0b00000110, 0x12, 0x34]) = .ok (.cmdSetPixelType 0x12 0x34) ∧
    decode c (.write [0b00000000, 0b00001001, 2, 0xFF, 0, 0, 0x80]) = .ok (.cmdSetLedColor 2 0xFF 0 0 0x80) ∧
    decode c (.write [0b00000000, 0b00001110]) = .ok .cmdDeviceReset ∧
    decode c (.write [0b00000000, 0b00001111]) = .ok (.cmdWrite 0x0F [])

/-- R60, R64, R65: decoding the encoding of a well-formed operation gives it back, for every row and every operand value. -/
def Obligations.DecodeOfEncodeGivesTheOperation : Prop :=
  ∀ (c : Ctx) (i : Instr), c.par.wf = true → c.count.toNat ≤ c.par.maxLeds → i.wf c = true →
    decode c (encode c.par i) = .ok i

/-- R63: the decoder is total on what can be delivered, and what it gives is well-formed and has the event's format. -/
def Obligations.EveryDeliverableEventDecodes : Prop :=
  ∀ (c : Ctx) (e : BusEvent), c.par.wf = true → (∀ T, e = .write T → T.length ≤ c.par.maxTxnLen) →
    ∃ i, decode c e = .ok i ∧ i.wf c = true ∧ i.format = e.format

/-- Log 14 (the model's reading of R71): the decoder discards surplus argument bytes, so the transaction decodes to the command with its
first arity bytes, as it does without them. -/
def Obligations.SurplusArgumentsAreIgnored : Prop :=
  ∀ (c : Ctx) (cmd : Cmd) (args extra : List Byte), c.par.wf = true → args.length = cmd.arity →
    2 + args.length + extra.length ≤ c.par.maxTxnLen →
      decode c (.write (0 :: c.par.codes.code cmd :: (args ++ extra))) = .ok (buildCommand cmd args) ∧
      decode c (.write (0 :: c.par.codes.code cmd :: args)) = .ok (buildCommand cmd args)

/-- R34: the class table, and that the order of the tests does not matter. -/
def Obligations.RegisterClassesAreDisjoint : Prop :=
  ∀ (p : Params) (count a : Byte), p.wf = true → count.toNat ≤ p.maxLeds →
    (regClass p count a = .cmd ↔ a = 0) ∧
    (regClass p count a = .led ↔ 1 ≤ a.toNat ∧ a.toNat ≤ count.toNat) ∧
    (regClass p count a = .blIdent ↔ a = p.blAddrIdent) ∧
    (regClass p count a = .blReset ↔ a = p.blAddrReset) ∧
    (regClass p count a = .blJump ↔ a = p.blAddrJump) ∧
    (regClass p count a = .invalid ↔
      count.toNat < a.toNat ∧ a ≠ p.blAddrIdent ∧ a ≠ p.blAddrReset ∧ a ≠ p.blAddrJump)

/-- R8, R58: from every safe state that has not handed control over, a step answers a next state; the only exception is a
transaction that cannot be delivered. In `READY` with no flag pending, and in `HALT`, a turn of CTRL has a step only by log 4 (the model's
stutter), and with an empty schedule `READY` and `HALT` move only by log 4; R117 and R131 give CTRL no step there. -/
def Obligations.SafeStatesNeverStop : Prop :=
  ∀ s : State, Safe s → s.ctrl ≠ .jumped →
    (∀ T rest, s.inputs = .bus (.write T) :: rest → T.length ≤ s.par.maxTxnLen) → ∃ t, step s = .next t

/-- R132, R8, item 11 of 93_implementation_defined.md: where a step is refused, and by which name (log 8, log 9). -/
def Obligations.RefusalsOfTheStep : Prop :=
  ∀ s : State,
    (s.ctrl = .jumped → step s = .refused .jumped) ∧
    (s.ctrl ≠ .jumped → s.par.wf = false → step s = .refused .badParameters) ∧
    (∀ T rest, s.ctrl ≠ .jumped → s.par.wf = true → s.inputs = .bus (.write T) :: rest → s.par.maxTxnLen < T.length →
      step s = .refused .txnTooLong)

/-- The model's choice (log 10): an operation given to `exec` in a state that does not meet its row's condition is refused. -/
def Obligations.OperationsOutsideTheirConditionAreRefused : Prop :=
  ∀ (s : State) (a : Byte) (data : List Byte),
    (s.classOf a ≠ .led → exec (.addrSetLed a) s = .refused .formMismatch) ∧
    (s.classOf a ≠ .invalid → exec (.addrSetClamp a) s = .refused .formMismatch) ∧
    (s.classOf a ≠ .led → exec (.regWrite a data) s = .refused .formMismatch) ∧
    (a = 0 ∨ s.classOf a = .led → exec (.regWriteDrop a data) s = .refused .formMismatch) ∧
    exec (.regWrite a []) s = .refused .formMismatch ∧
    exec (.regWriteDrop a []) s = .refused .formMismatch ∧
    (s.curAddr ≠ 0 → exec .readCmd s = .refused .formMismatch) ∧
    (¬ s.fbValid s.curAddr s.cursor → exec .readLed s = .refused .formMismatch) ∧
    ((blResp s.par (s.classOf s.curAddr)).length ≤ s.cursor.toNat → exec .readBl s = .refused .formMismatch) ∧
    (s.curAddr = 0 ∨ s.fbValid s.curAddr s.cursor ∨ s.cursor.toNat < (blResp s.par (s.classOf s.curAddr)).length →
      exec .readFix s = .refused .formMismatch)

/-! ### Invariants -/

/-- The state right after reset (R32) is safe. It rests on the model's own values in `State.reset`: the parameters of log 2, placeholders
among them, and the blank record of log 7. -/
def Obligations.ResetStateIsSafe : Prop := Safe State.reset

/-- R15, R29, R30 and the persist invariant of R126: every step of either agent and the reset step keep them, from every state that
meets them. -/
def Obligations.StepKeepsSafe : Prop :=
  ∀ s t : State, Safe s → step s = .next t → Safe t

/-- R5, R9: no step writes a parameter, and the observation is only added to (what it records is log 15). That draws are never taken back
is about the model's own counter (log 6). -/
def Obligations.StepKeepsParametersAndObservation : Prop :=
  ∀ s t : State, step s = .next t → t.par = s.par ∧ s.trace <+: t.trace ∧ s.draws ≤ t.draws

/-! ### Register decoder -/

/-- R78, R87: an address-only write of register 0, and the read there. -/
def Obligations.RegisterZeroSelectsTheResponse : Prop :=
  ∀ s : State,
    exec .addrSetCmd s = .next { s with curAddr := 0, cursor := 0 } ∧
    (s.curAddr = 0 → exec .readCmd s = .next { s with trace := s.trace ++ [.readData s.resp] })

/-- R79: an address-only write of a valid LED register. -/
def Obligations.AddressOnlyWriteSelectsAnLedRegister : Prop :=
  ∀ (s : State) (a : Byte), 1 ≤ a.toNat → a.toNat ≤ s.cfgCount.toNat →
    exec (.addrSetLed a) s = .next { s with curAddr := a, cursor := 0 }

/-- R80: an address-only write of an invalid address selects register 1, and the next read returns its first byte. -/
def Obligations.AddressOnlyWriteClampsAnInvalidAddress : Prop :=
  ∀ (s : State) (a : Byte), s.cfgCount.toNat < a.toNat → a ≠ s.par.blAddrIdent → a ≠ s.par.blAddrReset →
    a ≠ s.par.blAddrJump →
      exec (.addrSetClamp a) s = .next { s with curAddr := 1, cursor := 0 } ∧
      (Safe s → exec .readLed { s with curAddr := 1, cursor := 0 } =
        .next { s with curAddr := 1, cursor := 1, trace := s.trace ++ [.readData (Memory.read s.fb 0)] })

/-- R81, R82, R83: the three reserved addresses are never clamped; each sets the pointer, and the two requests set their flag. -/
def Obligations.HandshakeAddressesSetPointerAndFlag : Prop :=
  ∀ s : State, s.par.wf = true → s.cfgCount.toNat ≤ s.par.maxLeds →
    decode s.ctx (.write [s.par.blAddrIdent]) = .ok .addrSetBlIdent ∧
    decode s.ctx (.write [s.par.blAddrReset]) = .ok .addrSetBlReset ∧
    decode s.ctx (.write [s.par.blAddrJump]) = .ok .addrSetBlJump ∧
    exec .addrSetBlIdent s = .next { s with curAddr := s.par.blAddrIdent, cursor := 0 } ∧
    exec .addrSetBlReset s =
      .next { s with curAddr := s.par.blAddrReset, cursor := 0, dfr := { s.dfr with reset := true } } ∧
    exec .addrSetBlJump s =
      .next { s with curAddr := s.par.blAddrJump, cursor := 0, dfr := { s.dfr with boot := true } }

/-- R84: a register write stores its bytes where the walk of the pointer puts them, leaves the pointer behind, and changes nothing else:
no flag, and no byte outside the stored ones. -/
def Obligations.RegisterWriteStoresAlongTheWalk : Prop :=
  ∀ (s : State) (a : Byte) (data : List Byte), Safe s → 1 ≤ a.toNat → a.toNat ≤ s.cfgCount.toNat → data ≠ [] →
    ∃ t, exec (.regWrite a data) s = .next t ∧
      (∀ i, Memory.read t.fb i = storedByte s.fb (regWalk s.cfgCount s.bpp a 0 data).1 i) ∧
      { t with fb := s.fb } =
        { s with
          curAddr := (regWalk s.cfgCount s.bpp a 0 data).2.1
          cursor := (regWalk s.cfgCount s.bpp a 0 data).2.2 }

/-- R37, R39, R84: the walk in closed form. Byte `j` goes to index `((A - 1) * BPP + j) mod (CFG_COUNT * BPP)`, and the pointer left
behind is the LED register and cursor of the index after the last. -/
def Obligations.RegisterWalkWrapsInsideTheWindow : Prop :=
  ∀ (count : Byte) (b : Bpp) (a : Byte) (data : List Byte), 1 ≤ a.toNat → a.toNat ≤ count.toNat →
    (regWalk count b.toNat a 0 data).1 =
      data.zipIdx.map (fun dj => (((a.toNat - 1) * b.toNat + dj.2) % (count.toNat * b.toNat), dj.1)) ∧
    fbIndex b.toNat (regWalk count b.toNat a 0 data).2.1 (regWalk count b.toNat a 0 data).2.2 =
      ((a.toNat - 1) * b.toNat + data.length) % (count.toNat * b.toNat) ∧
    1 ≤ (regWalk count b.toNat a 0 data).2.1.toNat ∧ (regWalk count b.toNat a 0 data).2.1.toNat ≤ count.toNat ∧
    (regWalk count b.toNat a 0 data).2.2.toNat < b.toNat

/-- R39: the three cases of the advance, and that its result is always an LED register with a valid cursor. -/
def Obligations.AdvanceStaysInTheWindow : Prop :=
  ∀ (count : Byte) (b : Bpp) (a c : Byte), 1 ≤ a.toNat → a.toNat ≤ count.toNat → c.toNat < b.toNat →
    (c.toNat + 1 < b.toNat → advance count b.toNat a c = (a, c + 1)) ∧
    (b.toNat ≤ c.toNat + 1 → a = count → advance count b.toNat a c = (1, 0)) ∧
    (b.toNat ≤ c.toNat + 1 → a ≠ count → advance count b.toNat a c = (a + 1, 0)) ∧
    1 ≤ (advance count b.toNat a c).1.toNat ∧ (advance count b.toNat a c).1.toNat ≤ count.toNat ∧
    (advance count b.toNat a c).2.toNat < b.toNat

/-- R77, R85, R93, R136, R137: every drop leaves every element of the block as it was and only records its reason. -/
def Obligations.DropsOnlyRecordTheirReason : Prop :=
  ∀ s : State,
    exec .txnEmpty s = .next { s with trace := s.trace ++ [.drop .empty] } ∧
    (∀ (a : Byte) (data : List Byte), a ≠ 0 → s.classOf a ≠ .led → data ≠ [] →
      exec (.regWriteDrop a data) s = .next { s with trace := s.trace ++ [.drop .writeRange] }) ∧
    (∀ (k : Byte) (args : List Byte), s.par.codes.find k = none →
      exec (.cmdWrite k args) s = .next { s with trace := s.trace ++ [.drop .unknownCmd] }) ∧
    (∀ (k : Byte) (args : List Byte) (c : Cmd), s.par.codes.find k = some c → args.length < c.arity →
      exec (.cmdWrite k args) s = .next { s with trace := s.trace ++ [.drop .shortArgs] }) ∧
    (∀ i r g b w : Byte, s.cfgCount.toNat ≤ i.toNat →
      exec (.cmdCopyAll i) s = .next { s with trace := s.trace ++ [.drop .indexRange] } ∧
      exec (.cmdSetDefaultFromIndex i) s = .next { s with trace := s.trace ++ [.drop .indexRange] } ∧
      exec (.cmdSetLedColor i r g b w) s = .next { s with trace := s.trace ++ [.drop .indexRange] })

/-- R88: a read at a valid LED register returns the byte under the pointer and advances it; nothing else changes. -/
def Obligations.LedReadReturnsTheByteAndAdvances : Prop :=
  ∀ s : State, Safe s → s.fbValid s.curAddr s.cursor →
    exec .readLed s =
      .next { s with
        curAddr := (advance s.cfgCount s.bpp s.curAddr s.cursor).1
        cursor := (advance s.cfgCount s.bpp s.curAddr s.cursor).2
        trace := s.trace ++ [.readData (Memory.read s.fb ((s.curAddr.toNat - 1) * s.bpp + s.cursor.toNat))] }

/-- R89: a read at a reserved address returns the byte of its sequence under the cursor and moves the cursor, modulo the length; the
frame buffer is not read and no flag changes. -/
def Obligations.HandshakeReadCyclesThroughItsSequence : Prop :=
  ∀ (s : State) (l : List Byte) (v : Byte), s.par.wf = true → s.cfgCount.toNat ≤ s.par.maxLeds →
    (s.curAddr = s.par.blAddrIdent ∧ l = s.par.blRespIdent ∨ s.curAddr = s.par.blAddrReset ∧ l = s.par.blRespReset ∨
      s.curAddr = s.par.blAddrJump ∧ l = s.par.blRespJump) →
    l[s.cursor.toNat]? = some v →
      exec .readBl s =
        .next { s with
          cursor := BitVec.ofNat 8 ((s.cursor.toNat + 1) % l.length)
          trace := s.trace ++ [.readData v] }

/-- R90: a read with an inconsistent pointer is answered from the start of its sequence, or from register 1. Such states are reached by no
run (R29). -/
def Obligations.InconsistentReadIsRepaired : Prop :=
  ∀ s : State, s.par.wf = true → s.cfgCount.toNat ≤ s.par.maxLeds →
    (∀ (l : List Byte) (v : Byte),
      (s.curAddr = s.par.blAddrIdent ∧ l = s.par.blRespIdent ∨ s.curAddr = s.par.blAddrReset ∧ l = s.par.blRespReset ∨
        s.curAddr = s.par.blAddrJump ∧ l = s.par.blRespJump) →
      l.length ≤ s.cursor.toNat → l[0]? = some v →
        exec .readFix s =
          .next { s with cursor := BitVec.ofNat 8 (1 % l.length), trace := s.trace ++ [.readData v] }) ∧
    ((s.classOf s.curAddr = .invalid ∨ 1 ≤ s.curAddr.toNat ∧ s.curAddr.toNat ≤ s.cfgCount.toNat ∧ s.bpp ≤ s.cursor.toNat) →
      exec .readFix s =
        .next { s with curAddr := 1, cursor := 1, trace := s.trace ++ [.readData (Memory.read s.fb 0)] })

/-- R138, R49: a read byte request never fails: it always returns one byte, and changes nothing of the block but the pointer. -/
def Obligations.EveryReadRequestIsAnswered : Prop :=
  ∀ (s : State) (rest : List Input), Safe s → s.ctrl ≠ .jumped → s.inputs = .bus .read :: rest →
    ∃ t v, step s = .next t ∧ t.trace = s.trace ++ [.bus .read, .readData v] ∧
      { t.toBlock with curAddr := s.curAddr, cursor := s.cursor } = s.toBlock

/-- R92, first half: the bytes written to an LED register are the bytes read back from it. -/
def Obligations.WrittenRegisterReadsBack : Prop :=
  ∀ (s : State) (a : Byte) (ds : List Byte) (rest : List Input), Safe s → s.ctrl ≠ .jumped → 1 ≤ a.toNat →
    a.toNat ≤ s.cfgCount.toNat → ds.length = s.bpp →
    s.inputs = .bus (.write (a :: ds)) :: .bus (.write [a]) :: (List.replicate s.bpp (.bus .read) ++ rest) →
      ∃ t, run (2 + s.bpp) s = .next t ∧ returnedBytes t.trace = returnedBytes s.trace ++ ds

/-- R92, second half, and R45: a colour set by command reads back from the pixel's register as the colour's bytes at the channel
offsets. -/
def Obligations.SetColorReadsBackAtTheOffsets : Prop :=
  ∀ (s : State) (p r g b w : Byte) (rest : List Input), Safe s → s.ctrl ≠ .jumped → p.toNat < s.cfgCount.toNat →
    offsetsPermute s.fmt →
    s.inputs = .bus (.write [0, s.par.codes.cSetLedColor, p, r, g, b, w]) :: .bus (.write [p + 1]) ::
      (List.replicate s.bpp (.bus .read) ++ rest) →
      ∃ t l, run (2 + s.bpp) s = .next t ∧ returnedBytes t.trace = returnedBytes s.trace ++ l ∧ l.length = s.bpp ∧
        l[s.fmt.offR.toNat]? = some r ∧ l[s.fmt.offG.toNat]? = some g ∧ l[s.fmt.offB.toNat]? = some b ∧
        (s.bpp = 4 → l[s.fmt.offW.toNat]? = some w)

/-! ### Commands -/

/-- R93, R86: a payload whose code and arity are good runs its command, whatever surplus follows; with an index the command accepts it
completes, as the command does, and leaves the pointer at register 0. -/
def Obligations.DispatcherRunsTheCommand : Prop :=
  ∀ (s : State) (c : Cmd) (args : List Byte), Safe s → c.arity ≤ args.length →
    exec (.cmdWrite (s.par.codes.code c) args) s = exec (buildCommand c args) s ∧
    ((takesIndex c = true → (argByte args 0).toNat < s.cfgCount.toNat) →
      ∃ t, exec (.cmdWrite (s.par.codes.code c) args) s = .next t ∧ exec (buildCommand c args) s = .next t ∧
        t.curAddr = 0 ∧ t.cursor = 0)

/-- R95: a command with fewer argument bytes than its arity leaves all of the block unchanged. -/
def Obligations.ShortCommandsLeaveTheBlockUnchanged : Prop :=
  ∀ (s : State) (c : Cmd) (args : List Byte) (rest : List Input), s.par.wf = true → s.ctrl ≠ .jumped →
    args.length < c.arity → s.inputs = .bus (.write (0 :: s.par.codes.code c :: args)) :: rest →
      step s =
        .next { s with
          inputs := rest
          trace := s.trace ++ [.bus (.write (0 :: s.par.codes.code c :: args)), .drop .shortArgs] }

/-- R110, R86: an executed command sets the flag of R110's table and no other, and leaves the pointer at register 0. -/
def Obligations.EachCommandSetsItsFlagOnly : Prop :=
  ∀ (s : State) (c : Cmd) (args : List Byte), Safe s →
    (takesIndex c = true → (argByte args 0).toNat < s.cfgCount.toNat) →
      ∃ t, exec (buildCommand c args) s = .next t ∧
        t.dfr = (match commandFlag c args with | none => s.dfr | some f => s.dfr.put f true) ∧
        t.curAddr = 0 ∧ t.cursor = 0

/-- R97, R98, R44: clear zeroes every logical byte and no other; clear-and-show also sets `RENDER`. -/
def Obligations.ClearZeroesTheLogicalBytes : Prop :=
  ∀ s : State, Safe s →
    (∃ t, exec .cmdClear s = .next t ∧
      (∀ i, Memory.read t.fb i = if i < s.cfgCount.toNat * s.bpp then 0 else Memory.read s.fb i) ∧
      { t with fb := s.fb } = { s with curAddr := 0, cursor := 0 }) ∧
    (∃ t, exec .cmdClearShow s = .next t ∧
      (∀ i, Memory.read t.fb i = if i < s.cfgCount.toNat * s.bpp then 0 else Memory.read s.fb i) ∧
      { t with fb := s.fb } = { s with dfr := { s.dfr with render := true }, curAddr := 0, cursor := 0 })

/-- R96, R99: `CMD_SHOW` and `CMD_COPY_ALL` only request: `RENDER` is set, or the index is stored and `COPY` is set; the frame buffer is
neither read nor written. -/
def Obligations.ShowAndCopyAllOnlyRequest : Prop :=
  ∀ (s : State) (i : Byte),
    exec .cmdShow s = .next { s with dfr := { s.dfr with render := true }, curAddr := 0, cursor := 0 } ∧
    (i.toNat < s.cfgCount.toNat →
      exec (.cmdCopyAll i) s =
        .next { s with copyIdx := i, dfr := { s.dfr with copy := true }, curAddr := 0, cursor := 0 })

/-- R100: the LED count is clamped to `1..MAX_LEDS`, never dropped. -/
def Obligations.SetLedCountClamps : Prop :=
  ∀ (s : State) (n : Byte), s.par.wf = true →
    ∃ k : Byte, k.toNat = min (max n.toNat 1) s.par.maxLeds ∧
      exec (.cmdSetLedCount n) s =
        .next { s with cfgCount := k, dfr := { s.dfr with persist := true }, curAddr := 0, cursor := 0 }

/-- R101, R102, R106, R68: the other configuration commands with immediate arguments write their mirror field and set `PERSIST`. -/
def Obligations.ConfigurationCommandsWriteTheMirror : Prop :=
  ∀ (s : State) (hi lo a r g b w : Byte),
    (∃ t : BitVec 16, t.toNat = hi.toNat * 256 + lo.toNat ∧
      exec (.cmdSetPixelType hi lo) s =
        .next { s with cfgPtype := t, dfr := { s.dfr with persist := true }, curAddr := 0, cursor := 0 }) ∧
    exec (.cmdSetBusAddr a) s =
      .next { s with cfgBusAddr := a, dfr := { s.dfr with persist := true }, curAddr := 0, cursor := 0 } ∧
    exec (.cmdSetDefaultColor r g b w) s =
      .next { s with cfgDefColor := ⟨r, g, b, w⟩, dfr := { s.dfr with persist := true }, curAddr := 0, cursor := 0 }

/-- R103: the default colour is the pixel's colour now. -/
def Obligations.SetDefaultFromIndexReadsThePixel : Prop :=
  ∀ (s : State) (i : Byte), Safe s → i.toNat < s.cfgCount.toNat →
    exec (.cmdSetDefaultFromIndex i) s =
      .next { s with
        cfgDefColor := pixelRead s.fmt s.fb i.toNat
        dfr := { s.dfr with persist := true }
        curAddr := 0
        cursor := 0 }

/-- R104, R42: one pixel is written and no other byte; no flag is set. -/
def Obligations.SetLedColorWritesOnePixel : Prop :=
  ∀ (s : State) (i r g b w : Byte), Safe s → i.toNat < s.cfgCount.toNat →
    ∃ t, exec (.cmdSetLedColor i r g b w) s = .next t ∧
      (∀ j, Memory.read t.fb j = storedByte s.fb (pixelStores s.fmt i.toNat ⟨r, g, b, w⟩) j) ∧
      (∀ j, j < i.toNat * s.bpp ∨ i.toNat * s.bpp + s.bpp ≤ j → Memory.read t.fb j = Memory.read s.fb j) ∧
      { t with fb := s.fb } = { s with curAddr := 0, cursor := 0 }

/-- R105, R44: every logical pixel takes the colour, and no byte beyond the logical ones changes. -/
def Obligations.SetAllColorFillsTheLogicalPixels : Prop :=
  ∀ (s : State) (r g b w : Byte), Safe s →
    ∃ t, exec (.cmdSetAllColor r g b w) s = .next t ∧
      (∀ q j, q < s.cfgCount.toNat → j < s.bpp →
        Memory.read t.fb (q * s.bpp + j) = storedByte s.fb (pixelStores s.fmt q ⟨r, g, b, w⟩) (q * s.bpp + j)) ∧
      (∀ j, s.cfgCount.toNat * s.bpp ≤ j → Memory.read t.fb j = Memory.read s.fb j) ∧
      { t with fb := s.fb } = { s with curAddr := 0, cursor := 0 }

/-- R107, R147: power control, and the level it drives. -/
def Obligations.PowerCommandDrivesTheOutput : Prop :=
  ∀ (s : State) (v : Byte),
    (v ≠ 0 → exec (.cmdPower v) s =
      .next { s with pwrOn := true, dfr := { s.dfr with settle := true }, curAddr := 0, cursor := 0 }) ∧
    exec (.cmdPower 0) s = .next { s with pwrOn := false, curAddr := 0, cursor := 0 } ∧
    s.pwrEnN = !s.pwrOn

/-- R108: every logical byte takes a draw of its own, no other byte changes, and `RENDER` is set. The draws are free values: which bytes
they are is not said (log 6). -/
def Obligations.RainbowDrawsEveryLogicalByte : Prop :=
  ∀ s : State, Safe s →
    ∃ t, exec .cmdRainbow s = .next t ∧
      (∀ i, Memory.read t.fb i =
        if i < s.cfgCount.toNat * s.bpp then Config.freeByte (s.draws + i) else Memory.read s.fb i) ∧
      { t with fb := s.fb } =
        { s with
          dfr := { s.dfr with render := true }
          draws := s.draws + s.cfgCount.toNat * s.bpp
          curAddr := 0
          cursor := 0 }

/-- R109: the response register takes a draw and `RESET` is set; the reset itself is deferred. The draw is a free value (log 6). -/
def Obligations.DeviceResetStagesAResponse : Prop :=
  ∀ s : State, exec .cmdDeviceReset s =
    .next { s with
      resp := Config.freeByte s.draws
      draws := s.draws + 1
      dfr := { s.dfr with reset := true }
      curAddr := 0
      cursor := 0 }

/-! ### Pixels -/

/-- R41: the default pixel format, field by field; the high byte of the type is not read. -/
def Obligations.DefaultPixelFormat : Prop :=
  ∀ t : BitVec 16,
    (neoPixelDecode t).offW.toNat = t.toNat / 64 % 4 ∧ (neoPixelDecode t).offR.toNat = t.toNat / 16 % 4 ∧
    (neoPixelDecode t).offG.toNat = t.toNat / 4 % 4 ∧ (neoPixelDecode t).offB.toNat = t.toNat % 4 ∧
    (neoPixelDecode t).bpp.toNat = (if t.toNat / 64 % 4 = t.toNat / 16 % 4 then 3 else 4) ∧
    (∀ u : BitVec 16, u.toNat % 256 = t.toNat % 256 → neoPixelDecode u = neoPixelDecode t)

/-- R42: what each byte of a pixel holds after a pixel write (where offsets coincide the later channel wins, in the order R, G, B, W), and
that no other byte changes. -/
def Obligations.PixelWriteByteByByte : Prop :=
  ∀ (m : Memory) (f : PixelFormat) (q : Nat) (col : Color), Memory.wf m →
    (∀ j, j < f.bpp.toNat →
      Memory.read (Memory.writeAll m (pixelStores f q col)) (q * f.bpp.toNat + j) =
        if f.bpp = .four ∧ f.offW.toNat = j then col.w
        else if f.offB.toNat = j then col.b
        else if f.offG.toNat = j then col.g
        else if f.offR.toNat = j then col.r
        else Memory.read m (q * f.bpp.toNat + j)) ∧
    (∀ i, i < q * f.bpp.toNat ∨ q * f.bpp.toNat + f.bpp.toNat ≤ i →
      Memory.read (Memory.writeAll m (pixelStores f q col)) i = Memory.read m i)

/-- R43: what a pixel read returns; and (the spec's own inference from R42 and R43) after a pixel write it gives the colour back when the
offsets are a permutation, with `w` 0 when `BPP = 3`. -/
def Obligations.PixelReadAfterWrite : Prop :=
  ∀ (m : Memory) (f : PixelFormat) (q : Nat) (col : Color),
    (let base := q * f.bpp.toNat
     pixelRead f m q =
      { r := if f.offR.toNat < f.bpp.toNat then Memory.read m (base + f.offR.toNat) else 0
        g := if f.offG.toNat < f.bpp.toNat then Memory.read m (base + f.offG.toNat) else 0
        b := if f.offB.toNat < f.bpp.toNat then Memory.read m (base + f.offB.toNat) else 0
        w := if f.bpp = .four ∧ f.offW.toNat < f.bpp.toNat then Memory.read m (base + f.offW.toNat) else 0 }) ∧
    (Memory.wf m → offsetsPermute f →
      pixelRead f (Memory.writeAll m (pixelStores f q col)) q =
        { col with w := if f.bpp = .four then col.w else 0 })

/-! ### Deferred control -/

/-- R116, R130, R135: in `READY` any pending flag may be serviced next; the watchdog is kicked, the service starts, and no other flag
changes. -/
def Obligations.AnyPendingFlagMayBeServicedNext : Prop :=
  ∀ (s : State) (f : Flag) (rest : List Input), Safe s → s.ctrl = .ready → s.dfr.get f = true →
    s.inputs = .ctrl f :: rest →
      ∃ t, step s = .next t ∧ s.trace ++ [.wdtKick] <+: t.trace ∧ t.inputs = rest ∧
        (∀ g, g ≠ f → t.dfr.get g = s.dfr.get g) ∧
        (f = .render → t.ctrl = .renderBusy ∧ t.dfr.render = true) ∧
        (f = .copy → t.ctrl = .copyFill ∧ t.dfr.copy = true) ∧
        (f = .settle → t.ctrl = .settleWait ∧ t.dfr.settle = true) ∧
        (f = .persist → t.ctrl = .persistWrite ∧ t.dfr.persist = true) ∧
        (f = .reset → t.ctrl = .halt ∧ t.dfr.reset = false) ∧
        (f = .boot → t.ctrl = .jumped ∧ t.dfr.boot = false)

/-- The model's choice (log 4): a turn of CTRL in a state in which R115 gives it no step changes nothing but the schedule. -/
def Obligations.CtrlWithoutAStepDoesNothing : Prop :=
  ∀ (s : State) (f : Flag) (rest : List Input), s.par.wf = true → s.inputs = .ctrl f :: rest →
    (s.ctrl = .halt ∨ s.ctrl = .ready ∧ s.dfr.get f = false) → step s = .next { s with inputs := rest }

/-- R118, R119: the render service commits the logical frame once, as one snapshot, and then clears `RENDER`. -/
def Obligations.RenderServiceCommitsOnce : Prop :=
  ∀ (s : State) (f : Flag) (rest : List Input), Safe s → s.ctrl = .ready → s.dfr.render = true →
    s.inputs = .ctrl .render :: .ctrl f :: rest →
      run 2 s =
        .next { s with
          dfr := { s.dfr with render := false }
          inputs := rest
          trace := s.trace ++ [.wdtKick,
            .commit ((List.range (s.cfgCount.toNat * s.bpp)).map (Memory.read s.fb)) s.cfgPtype] }

/-- R163: a `CMD_SHOW`, `CMD_CLEAR_SHOW` or `CMD_RAINBOW` taken between the snapshot and the clear is absorbed: one commit, of the frame as
it was at the snapshot, and no render stays pending. -/
def Obligations.ShowDuringARenderIsLost : Prop :=
  ∀ (s : State) (c : Cmd) (f : Flag) (rest : List Input), Safe s → s.ctrl = .ready → s.dfr.render = true →
    (c = .cShow ∨ c = .cClearShow ∨ c = .cRainbow) →
    s.inputs = .ctrl .render :: .bus (.write [0, s.par.codes.code c]) :: .ctrl f :: rest →
      ∃ t, run 3 s = .next t ∧ t.dfr.render = false ∧ t.ctrl = .ready ∧ t.inputs = rest ∧
        t.trace = s.trace ++ [.wdtKick, .commit s.logicalFrame s.cfgPtype, .bus (.write [0, s.par.codes.code c])]

/-- R120, R121, R122: the copy service. Uninterrupted, it fills every logical pixel with the colour the source pixel has at service time,
one pixel a step, clears `COPY`, and commits nothing. Whatever happened before it, one fill step writes pixel `FILL_I` with the latched
colour in the format in force now, up to the latched count, and the step at the latched count ends the service. -/
def Obligations.CopyServiceFillsEveryLogicalPixel : Prop :=
  (∀ (s : State) (rest : List Input), Safe s → s.ctrl = .ready → s.dfr.copy = true →
    s.inputs = List.replicate (s.cfgCount.toNat + 2) (.ctrl .copy) ++ rest →
      ∃ t, run (s.cfgCount.toNat + 2) s = .next t ∧
        (∀ i, Memory.read t.fb i =
          storedByte s.fb (fillStores s.fmt s.cfgCount.toNat (pixelRead s.fmt s.fb s.copyIdx.toNat)) i) ∧
        { t with fb := s.fb } =
          { s with
            dfr := { s.dfr with copy := false }
            fillI := s.cfgCount
            fillN := s.cfgCount
            fillColor := pixelRead s.fmt s.fb s.copyIdx.toNat
            inputs := rest
            trace := s.trace ++ [.wdtKick] }) ∧
  (∀ s : State, Safe s → s.ctrl = .copyFill → s.ctrlMoves →
    (s.fillI.toNat < s.fillN.toNat →
      ∃ t, step s = .next t ∧
        (∀ i, Memory.read t.fb i = storedByte s.fb (pixelStores s.fmt s.fillI.toNat s.fillColor) i) ∧
        t.fillI.toNat = s.fillI.toNat + 1 ∧
        { t with fb := s.fb, fillI := s.fillI } = { s with inputs := s.inputs.tail }) ∧
    (s.fillI = s.fillN →
      step s = .next { s with dfr := { s.dfr with copy := false }, ctrl := .ready, inputs := s.inputs.tail }))

/-- R123, R124: the settle service waits and then turns into a render request. -/
def Obligations.SettleServiceRequestsARender : Prop :=
  ∀ (s : State) (f : Flag) (rest : List Input), s.par.wf = true → s.ctrl = .ready → s.dfr.settle = true →
    s.inputs = .ctrl .settle :: .ctrl f :: rest →
      run 1 s = .next { s with ctrl := .settleWait, inputs := .ctrl f :: rest, trace := s.trace ++ [.wdtKick] } ∧
      run 2 s =
        .next { s with
          dfr := { s.dfr with render := true, settle := false }
          inputs := rest
          trace := s.trace ++ [.wdtKick] }

/-- R125, R126, R127, R131, R50, R52: the persist service writes the image of the mirror in ten single-byte writes, the magic byte
invalidated first and written last, and then forces a reset. -/
def Obligations.PersistServiceWritesTheRecord : Prop :=
  ∀ (s : State) (rest : List Input), s.par.wf = true → s.ctrl = .ready → s.dfr.persist = true →
    s.inputs = List.replicate 12 (.ctrl .persist) ++ rest →
      run 12 s =
        .next { s with
          nvImg := s.nvImage
          nvK := 10
          nv := s.nvImage
          ctrl := .halt
          wdtMode := .shortArmed
          dfr := { s.dfr with persist := false }
          inputs := rest
          trace := s.trace ++
            [.wdtKick,
              .nvWrite s.par.nvBase (s.par.cfgMagic ^^^ 0xFF),
              .nvWrite (s.par.nvBase + 1) s.cfgBusAddr,
              .nvWrite (s.par.nvBase + 2) (BitVec.ofNat 8 (s.cfgPtype.toNat / 256)),
              .nvWrite (s.par.nvBase + 3) (BitVec.ofNat 8 s.cfgPtype.toNat),
              .nvWrite (s.par.nvBase + 4) s.cfgCount,
              .nvWrite (s.par.nvBase + 5) s.cfgDefColor.r,
              .nvWrite (s.par.nvBase + 6) s.cfgDefColor.g,
              .nvWrite (s.par.nvBase + 7) s.cfgDefColor.b,
              .nvWrite (s.par.nvBase + 8) s.cfgDefColor.w,
              .nvWrite s.par.nvBase s.par.cfgMagic,
              .wdtArmShort] }

/-- R125 to R127, R155 to R157: what the persist service wrote is what the reset after it loads. -/
def Obligations.PersistedConfigurationLoadsBack : Prop :=
  ∀ (s : State) (rest : List Input), Safe s → s.ctrl = .ready → s.dfr.persist = true →
    s.inputs = List.replicate 12 (.ctrl .persist) ++ .reset :: rest →
      ∃ t, run 13 s = .next t ∧ t.cfgBusAddr = s.cfgBusAddr ∧ t.cfgPtype = s.cfgPtype ∧ t.cfgCount = s.cfgCount ∧
        t.cfgDefColor = s.cfgDefColor ∧ t.ctrl = .ready ∧ t.wdtMode = .normal

/-- R126, R165: wherever a reset cuts a persist, it leaves the record as it is and no mixed record is trusted: between the first write and
the last boot takes the defaults, and after the last it loads the snapshot. -/
def Obligations.TornRecordIsNeverTrusted : Prop :=
  ∀ (s : State) (rest : List Input), Safe s → s.ctrl = .persistWrite → s.inputs = .reset :: rest →
    ∃ t, step s = .next t ∧ t.nv = s.nv ∧
      (1 ≤ s.nvK.toNat → s.nvK.toNat ≤ 9 →
        t.cfgBusAddr = s.par.defBusAddr ∧ t.cfgPtype = s.par.defPixelType ∧ t.cfgCount = s.par.defLedCount ∧
          t.cfgDefColor = s.par.defColor) ∧
      (s.nvK.toNat = 10 →
        t.cfgBusAddr = s.nvImg.busAddr ∧ t.cfgPtype = s.nvImg.ptypeHi ++ s.nvImg.ptypeLo ∧
          t.cfgCount = clampCount s.par s.nvImg.count ∧
          t.cfgDefColor = ⟨s.nvImg.r, s.nvImg.g, s.nvImg.b, s.nvImg.w⟩)

/-- R128, R129, R131: the reset service enters `HALT`, the boot service `JUMPED`; each clears its flag only. -/
def Obligations.ResetAndBootServices : Prop :=
  ∀ (s : State) (rest : List Input), s.par.wf = true → s.ctrl = .ready →
    (s.dfr.reset = true → s.inputs = .ctrl .reset :: rest →
      step s =
        .next { s with
          dfr := { s.dfr with reset := false }
          wdtMode := .shortArmed
          ctrl := .halt
          inputs := rest
          trace := s.trace ++ [.wdtKick, .wdtArmShort] }) ∧
    (s.dfr.boot = true → s.inputs = .ctrl .boot :: rest →
      step s =
        .next { s with
          dfr := { s.dfr with boot := false }
          ctrl := .jumped
          inputs := rest
          trace := s.trace ++ [.wdtKick, .bootJump] })

/-- R133: with nothing scheduled the block works off what is pending, whatever order CTRL picks: within 300 steps it has handed control
over, or is idle with no flag pending. The bound, and that the watchdog reset is the next step in `HALT`, are the model's (log 4). -/
def Obligations.QuietBlockComesToRest : Prop :=
  ∀ s : State, Safe s → s.inputs = [] →
    ∃ n t, n ≤ 300 ∧ run n s = .next t ∧ (t.ctrl = .jumped ∨ t.ctrl = .ready ∧ t.dfr = Dfr.none)

/-! ### Which agent writes what -/

/-- R31, R134, R143: a bus operation leaves CTRL's state, `NV` and the watchdog alone and clears no flag. -/
def Obligations.BusWritesNoControlState : Prop :=
  ∀ (i : Instr) (s t : State), exec i s = .next t →
    t.ctrl = s.ctrl ∧ t.fillI = s.fillI ∧ t.fillN = s.fillN ∧ t.fillColor = s.fillColor ∧ t.nvK = s.nvK ∧
    t.nvImg = s.nvImg ∧ t.nv = s.nv ∧ t.wdtMode = s.wdtMode ∧ (∀ f, s.dfr.get f = true → t.dfr.get f = true)

/-- R13 to R26, R110, R147: each element BUS may write changes only at the operations its rule names; everything else leaves it as it
was. (The pointer is not listed: most operations move it.) -/
def Obligations.EachElementHasItsWriters : Prop :=
  ∀ (i : Instr) (s t : State), i.wf s.ctx = true → exec i s = .next t →
    (t.cfgBusAddr ≠ s.cfgBusAddr → ∃ a, i = .cmdSetBusAddr a) ∧
    (t.cfgPtype ≠ s.cfgPtype → ∃ hi lo, i = .cmdSetPixelType hi lo) ∧
    (t.cfgCount ≠ s.cfgCount → ∃ n, i = .cmdSetLedCount n) ∧
    (t.cfgDefColor ≠ s.cfgDefColor → (∃ x, i = .cmdSetDefaultFromIndex x) ∨ ∃ r g b w, i = .cmdSetDefaultColor r g b w) ∧
    (t.resp ≠ s.resp → i = .cmdDeviceReset) ∧
    (t.copyIdx ≠ s.copyIdx → ∃ x, i = .cmdCopyAll x) ∧
    (t.pwrOn ≠ s.pwrOn → ∃ v, i = .cmdPower v) ∧
    (t.fb ≠ s.fb → (∃ a data, i = .regWrite a data) ∨ i = .cmdClear ∨ i = .cmdClearShow ∨
      (∃ x r g b w, i = .cmdSetLedColor x r g b w) ∨ (∃ r g b w, i = .cmdSetAllColor r g b w) ∨ i = .cmdRainbow) ∧
    (t.dfr.render ≠ s.dfr.render → i = .cmdShow ∨ i = .cmdClearShow ∨ i = .cmdRainbow) ∧
    (t.dfr.copy ≠ s.dfr.copy → ∃ x, i = .cmdCopyAll x) ∧
    (t.dfr.persist ≠ s.dfr.persist → (∃ n, i = .cmdSetLedCount n) ∨ (∃ hi lo, i = .cmdSetPixelType hi lo) ∨
      (∃ a, i = .cmdSetBusAddr a) ∨ (∃ x, i = .cmdSetDefaultFromIndex x) ∨ ∃ r g b w, i = .cmdSetDefaultColor r g b w) ∧
    (t.dfr.settle ≠ s.dfr.settle → ∃ v, v ≠ 0 ∧ i = .cmdPower v) ∧
    (t.dfr.reset ≠ s.dfr.reset → i = .addrSetBlReset ∨ i = .cmdDeviceReset) ∧
    (t.dfr.boot ≠ s.dfr.boot → i = .addrSetBlJump)

/-- R31: a CTRL step leaves the mirror, the pointer, `RESP`, `COPY_IDX` and `PWR_ON` alone, writes the frame buffer only in a copy fill, and
sets no flag but `RENDER` at the end of a settle wait: a scheduled turn, and every step CTRL takes with an empty schedule (log 4). -/
def Obligations.CtrlWritesNoBusState : Prop :=
  ∀ s t : State, ((∃ f, ctrlStep f s = .next t) ∨ s.ctrlMoves ∧ step s = .next t) →
    t.cfgBusAddr = s.cfgBusAddr ∧ t.cfgPtype = s.cfgPtype ∧ t.cfgCount = s.cfgCount ∧ t.cfgDefColor = s.cfgDefColor ∧
    t.curAddr = s.curAddr ∧ t.cursor = s.cursor ∧ t.resp = s.resp ∧ t.copyIdx = s.copyIdx ∧ t.pwrOn = s.pwrOn ∧
    (s.ctrl ≠ .copyFill → t.fb = s.fb) ∧
    (∀ g, t.dfr.get g = true → s.dfr.get g = true ∨ g = .render ∧ s.ctrl = .settleWait)

/-! ### Reset -/

/-- R153, R155, R156, R157: the reset step, in every state but `JUMPED`: boot reads the record once, trusts it only if the magic byte
matches, and clamps its count. That a reset comes from the schedule, or from an empty one in `HALT`, is the model's (log 4), and so is what
the observation records (log 15). -/
def Obligations.ResetLoadsTheRecordOrTheDefaults : Prop :=
  ∀ s : State, s.par.wf = true → s.resetMoves →
    ∃ t, step s = .next t ∧
      t.trace = s.trace ++ [.reset,
        .nvRead s.par.nvBase s.nv.magic, .nvRead (s.par.nvBase + 1) s.nv.busAddr,
        .nvRead (s.par.nvBase + 2) s.nv.ptypeHi, .nvRead (s.par.nvBase + 3) s.nv.ptypeLo,
        .nvRead (s.par.nvBase + 4) s.nv.count, .nvRead (s.par.nvBase + 5) s.nv.r, .nvRead (s.par.nvBase + 6) s.nv.g,
        .nvRead (s.par.nvBase + 7) s.nv.b, .nvRead (s.par.nvBase + 8) s.nv.w] ∧
      (s.nv.magic = s.par.cfgMagic →
        t.cfgBusAddr = s.nv.busAddr ∧ t.cfgPtype.toNat = s.nv.ptypeHi.toNat * 256 + s.nv.ptypeLo.toNat ∧
        t.cfgCount.toNat = min (max s.nv.count.toNat 1) s.par.maxLeds ∧
        t.cfgDefColor = ⟨s.nv.r, s.nv.g, s.nv.b, s.nv.w⟩) ∧
      (s.nv.magic ≠ s.par.cfgMagic →
        t.cfgBusAddr = s.par.defBusAddr ∧ t.cfgPtype = s.par.defPixelType ∧ t.cfgCount = s.par.defLedCount ∧
        t.cfgDefColor = s.par.defColor)

/-- R153, R158, R159, R160, R161: after the reset step, in every state but `JUMPED`: the frame buffer, every remaining reset value, and that
`NV` is not written. When the step comes is the model's (log 4), and so are the fields around the block (log 1). -/
def Obligations.ResetInitialisesEveryOtherElement : Prop :=
  ∀ s : State, s.par.wf = true → s.resetMoves →
    ∃ t, step s = .next t ∧
      (∀ q j, q < t.cfgCount.toNat → j < t.bpp →
        Memory.read t.fb (q * t.bpp + j) = storedByte [] (pixelStores t.fmt q t.cfgDefColor) (q * t.bpp + j)) ∧
      (∀ j, t.cfgCount.toNat * t.bpp ≤ j → Memory.read t.fb j = 0) ∧
      { t with fb := [], trace := [] } =
        { par := s.par, inputs := s.inputs.tail, trace := [], draws := s.draws,
          cfgBusAddr := t.cfgBusAddr, cfgPtype := t.cfgPtype, cfgCount := t.cfgCount, cfgDefColor := t.cfgDefColor,
          curAddr := 0, cursor := 0, resp := 0, fb := [], dfr := ⟨true, false, false, false, false, false⟩, copyIdx := 0,
          ctrl := .ready, fillI := 0, fillN := 0, fillColor := ⟨0, 0, 0, 0⟩, nvK := 0,
          nvImg := ⟨0, 0, 0, 0, 0, 0, 0, 0, 0⟩, pwrOn := s.par.pwrOnReset, nv := s.nv, wdtMode := .normal }

/-- From R154: of what the block held, nothing but `NV` influences the block after a reset: two blocks with the same parameters and the same
record are the same block after the reset step, whatever else they held. That `NV` is unchanged, and which values the other elements take,
is said by `ResetInitialisesEveryOtherElement` and `ResetLoadsTheRecordOrTheDefaults`. -/
def Obligations.OnlyNvSurvivesReset : Prop :=
  ∀ s s' : State, s.par.wf = true → s'.par = s.par → s'.nv = s.nv →
    ∃ t t', resetStep s = .next t ∧ resetStep s' = .next t' ∧ t'.toBlock = t.toBlock

/-- The model's choice (log 2, log 7): `State.reset` is what the reset step makes of a block under the spec's default parameters whose
NV record is nine zero bytes. -/
def Obligations.ResetStateIsTheBootOfABlankRecord : Prop :=
  ∀ s : State, s.par = Params.specDefault → s.nv = ⟨0, 0, 0, 0, 0, 0, 0, 0, 0⟩ →
    ∃ t, resetStep s = .next t ∧ t.toBlock = State.reset.toBlock
end

