-- ==== Sys2Proof/Laws/Decode.lean ====
section
/-! SUPPORT. What the constraints on the parameters give, what each register address class means, and how a command is found by its
code. -/

namespace Sys2Proof

/-- The numeric constraints of R5, taken out of `Params.wf`. -/
theorem Params.wf_bounds {p : Params} (h : p.wf = true) :
    (1 ≤ p.maxLeds ∧ p.maxLeds ≤ 252) ∧
      (p.maxLeds < p.blAddrIdent.toNat ∧ p.maxLeds < p.blAddrReset.toNat ∧ p.maxLeds < p.blAddrJump.toNat) ∧
      (p.blAddrIdent ≠ p.blAddrReset ∧ p.blAddrIdent ≠ p.blAddrJump ∧ p.blAddrReset ≠ p.blAddrJump) ∧
      (1 ≤ p.defLedCount.toNat ∧ p.defLedCount.toNat ≤ p.maxLeds) ∧ 7 ≤ p.maxTxnLen := by
  simp only [Params.wf, Bool.and_eq_true, decide_eq_true_eq] at h
  tauto

theorem Params.wf_resp {p : Params} (h : p.wf = true) :
    (0 < p.blRespIdent.length ∧ p.blRespIdent.length ≤ 256) ∧ (0 < p.blRespReset.length ∧ p.blRespReset.length ≤ 256) ∧
      (0 < p.blRespJump.length ∧ p.blRespJump.length ≤ 256) := by
  have key : ∀ l, respOk l = true → 0 < l.length ∧ l.length ≤ 256 := by
    intro l hl
    cases l <;> simp_all [respOk]
  simp only [Params.wf, Bool.and_eq_true] at h
  exact ⟨key _ (by tauto), key _ (by tauto), key _ (by tauto)⟩

theorem Params.wf_codes {p : Params} (h : p.wf = true) : (Cmd.all.map p.codes.code).Nodup := by
  simp only [Params.wf, Bool.and_eq_true, decide_eq_true_eq] at h
  tauto

theorem Cmd.mem_all (c : Cmd) : c ∈ Cmd.all := by cases c <;> decide

/-- Under an injective code map a command is found by its code. -/
theorem CmdCodes.find_code {m : CmdCodes} (h : (Cmd.all.map m.code).Nodup) (c : Cmd) : m.find (m.code c) = some c := by
  unfold CmdCodes.find
  cases hf : Cmd.all.find? (fun d => m.code d == m.code c) with
  | none =>
    have := List.find?_eq_none.1 hf c (Cmd.mem_all c)
    simp at this
  | some d =>
    have hd : m.code d = m.code c := by simpa using List.find?_some hf
    exact congrArg some (List.inj_on_of_nodup_map h (Cmd.mem_all d) (Cmd.mem_all c) hd)

theorem CmdCodes.code_of_find {m : CmdCodes} {k : Byte} {c : Cmd} (h : m.find k = some c) : m.code c = k := by
  simpa using List.find?_some h

/-- `BPP` is 3 or 4. -/
theorem Bpp.bounds (b : Bpp) : 3 ≤ b.toNat ∧ b.toNat ≤ 4 := by cases b <;> decide

/-! ### Register address classes -/

variable {p : Params} {count a : Byte}

theorem regClass_cmd_iff : regClass p count a = .cmd ↔ a = 0 := by
  unfold regClass
  split_ifs <;> simp_all

theorem regClass_led_iff : regClass p count a = .led ↔ 1 ≤ a.toNat ∧ a.toNat ≤ count.toNat := by
  unfold regClass
  by_cases h0 : a = 0
  · subst h0; simp
  · split_ifs <;> simp_all

/-- A reserved address is above every LED register, so its class is its own (R34). -/
theorem regClass_blIdent (hp : p.wf = true) (hc : count.toNat ≤ p.maxLeds) : regClass p count p.blAddrIdent = .blIdent := by
  obtain ⟨-, ⟨h, -, -⟩, -⟩ := Params.wf_bounds hp
  have h0 : p.blAddrIdent ≠ 0 := by intro e; rw [e] at h; simp at h
  rw [regClass, if_neg h0, if_neg (by omega), if_pos rfl]

theorem regClass_blReset (hp : p.wf = true) (hc : count.toNat ≤ p.maxLeds) : regClass p count p.blAddrReset = .blReset := by
  obtain ⟨-, ⟨-, h, -⟩, ⟨h1, -, -⟩, -⟩ := Params.wf_bounds hp
  have h0 : p.blAddrReset ≠ 0 := by intro e; rw [e] at h; simp at h
  rw [regClass, if_neg h0, if_neg (by omega), if_neg h1.symm, if_pos rfl]

theorem regClass_blJump (hp : p.wf = true) (hc : count.toNat ≤ p.maxLeds) : regClass p count p.blAddrJump = .blJump := by
  obtain ⟨-, ⟨-, -, h⟩, ⟨-, h1, h2⟩, -⟩ := Params.wf_bounds hp
  have h0 : p.blAddrJump ≠ 0 := by intro e; rw [e] at h; simp at h
  rw [regClass, if_neg h0, if_neg (by omega), if_neg h1.symm, if_neg h2.symm, if_pos rfl]

theorem eq_of_regClass_blIdent (h : regClass p count a = .blIdent) : a = p.blAddrIdent := by
  unfold regClass at h
  split_ifs at h
  simp_all

theorem eq_of_regClass_blReset (h : regClass p count a = .blReset) : a = p.blAddrReset := by
  unfold regClass at h
  split_ifs at h
  simp_all

theorem eq_of_regClass_blJump (h : regClass p count a = .blJump) : a = p.blAddrJump := by
  unfold regClass at h
  split_ifs at h
  simp_all

end Sys2Proof
end

