-- ==== Sys2Proof/Laws/Memory.lean ====
section
/-! SUPPORT. The laws of the frame-buffer memory: read after write, the canonical form and the index range are kept, and what a byte
reads as after a list of stores. -/

namespace Sys2Proof.Machine

/-! ### One write -/

theorem Memory.read_eq_zero_of_lt {m : Memory} {i : Nat} (h : ∀ c ∈ m, i < c.1) : Memory.read m i = 0 := by
  induction m with
  | nil => rfl
  | cons c m ih =>
    have hc := h c (by simp)
    obtain ⟨a, v⟩ := c
    simp only [Memory.read]
    rw [if_neg (by simp at hc; omega)]
    exact ih fun c hc' => h c (by simp [hc'])

/-- Read after write: the index written gives the byte written, every other index what it gave before. -/
theorem Memory.read_write {m : Memory} (hm : Memory.wf m) (i : Nat) (v : Byte) (j : Nat) :
    Memory.read (Memory.write m i v) j = if j = i then v else Memory.read m j := by
  induction m with
  | nil =>
    rw [Memory.write]
    split <;> rename_i hv
    · simp [Memory.read, hv]
    · rfl
  | cons c m ih =>
    obtain ⟨a, u⟩ := c
    obtain ⟨hp, hz⟩ := hm
    rw [List.pairwise_cons] at hp
    have ih := ih ⟨hp.2, fun c hc => hz c (by simp [hc])⟩
    have hlow : ∀ k, k ≤ a → Memory.read m k = 0 := fun k hk =>
      Memory.read_eq_zero_of_lt fun c hc => by have := hp.1 c hc; simp at this; omega
    rw [Memory.write]
    split
    · rename_i h1
      split <;> rename_i hv
      · by_cases hj : j = i
        · subst hj
          rw [if_pos rfl, hv, Memory.read, if_neg (Nat.ne_of_lt h1), hlow j (by omega)]
        · rw [if_neg hj]
      · rfl
    · split
      · rename_i h2
        subst h2
        split <;> rename_i hv
        · by_cases hj : j = i
          · subst hj; rw [if_pos rfl, hv, hlow j (Nat.le_refl j)]
          · simp only [if_neg hj, Memory.read]
        · simp only [Memory.read]
          split <;> rfl
      · simp only [Memory.read, ih]
        by_cases hj : j = a
        · subst hj; rw [if_pos rfl, if_neg (by omega), if_pos rfl]
        · simp only [if_neg hj]

theorem Memory.mem_write {m : Memory} {i : Nat} {v : Byte} {c : Host.Cell} (h : c ∈ Memory.write m i v) :
    c ∈ m ∨ (c = (i, v) ∧ v ≠ 0) := by
  induction m with
  | nil =>
    rw [Memory.write] at h
    split at h
    · exact .inl h
    · exact .inr ⟨by simpa using h, ‹_›⟩
  | cons d m ih =>
    obtain ⟨a, u⟩ := d
    simp only [Memory.write] at h
    split at h
    · split at h
      · exact .inl h
      · rcases List.mem_cons.1 h with h | h
        · exact .inr ⟨h, ‹_›⟩
        · exact .inl h
    · split at h
      · split at h
        · exact .inl (List.mem_cons_of_mem _ h)
        · rcases List.mem_cons.1 h with h | h
          · exact .inr ⟨h, ‹_›⟩
          · exact .inl (List.mem_cons_of_mem _ h)
      · rcases List.mem_cons.1 h with h | h
        · exact .inl (by simp [h])
        · rcases ih h with h | h
          · exact .inl (List.mem_cons_of_mem _ h)
          · exact .inr h

/-- A write keeps the canonical form. -/
theorem Memory.wf_write {m : Memory} (hm : Memory.wf m) (i : Nat) (v : Byte) : Memory.wf (Memory.write m i v) := by
  refine ⟨?_, fun c hc => ?_⟩
  · induction m with
    | nil => rw [Memory.write]; split <;> simp
    | cons d m ih =>
      obtain ⟨a, u⟩ := d
      obtain ⟨hp, hz⟩ := hm
      have hp' := List.pairwise_cons.1 hp
      have ih := ih ⟨hp'.2, fun c hc => hz c (by simp [hc])⟩
      simp only [Memory.write]
      split
      · split
        · exact hp
        · refine List.pairwise_cons.2 ⟨fun c hc => ?_, hp⟩
          rcases List.mem_cons.1 hc with rfl | hc
          · assumption
          · have := hp'.1 c hc
            simp at this ⊢
            omega
      · split
        · subst i
          split
          · exact hp'.2
          · exact List.pairwise_cons.2 ⟨hp'.1, hp'.2⟩
        · refine List.pairwise_cons.2 ⟨fun c hc => ?_, ih⟩
          rcases Memory.mem_write hc with hc | ⟨rfl, -⟩
          · exact hp'.1 c hc
          · simp
            omega
  · rcases Memory.mem_write hc with hc | ⟨rfl, hv⟩
    · exact hm.2 c hc
    · exact hv

/-- A write below a bound lists nothing at or above it. -/
theorem Memory.range_write {m : Memory} {n i : Nat} (hm : ∀ c ∈ m, c.1 < n) (hi : i < n) (v : Byte) :
    ∀ c ∈ Memory.write m i v, c.1 < n := by
  intro c hc
  rcases Memory.mem_write hc with hc | ⟨rfl, -⟩
  · exact hm c hc
  · exact hi

/-! ### A list of stores -/

theorem Memory.wf_writeAll {m : Memory} (hm : Memory.wf m) (st : List Host.Cell) : Memory.wf (Memory.writeAll m st) := by
  induction st generalizing m with
  | nil => exact hm
  | cons c st ih => exact ih (Memory.wf_write hm c.1 c.2)

theorem Memory.range_writeAll {m : Memory} {n : Nat} (hm : ∀ c ∈ m, c.1 < n) (st : List Host.Cell)
    (hst : ∀ c ∈ st, c.1 < n) : ∀ c ∈ Memory.writeAll m st, c.1 < n := by
  induction st generalizing m with
  | nil => exact hm
  | cons c st ih =>
    exact ih (Memory.range_write hm (hst c (by simp)) c.2) fun d hd => hst d (by simp [hd])

/-- After a list of stores a byte reads as the last store to it, or as before if none touches it. -/
theorem Memory.read_writeAll {m : Memory} (hm : Memory.wf m) (st : List Host.Cell) (i : Nat) :
    Memory.read (Memory.writeAll m st) i = storedByte m st i := by
  induction st generalizing m with
  | nil => rfl
  | cons c st ih =>
    obtain ⟨a, v⟩ := c
    rw [Memory.writeAll, ih (Memory.wf_write hm a v)]
    simp only [storedByte, lastStore, Memory.read_write hm]
    cases lastStore st i with
    | some w => simp
    | none => by_cases h : i = a <;> simp [h]

theorem lastStore_append (st st' : List Host.Cell) (i : Nat) :
    lastStore (st ++ st') i = (lastStore st' i).or (lastStore st i) := by
  induction st with
  | nil => simp [lastStore]
  | cons c st ih =>
    obtain ⟨a, v⟩ := c
    simp [lastStore, ih, Option.or_assoc]

theorem lastStore_eq_none {st : List Host.Cell} {i : Nat} : lastStore st i = none ↔ ∀ c ∈ st, c.1 ≠ i := by
  induction st with
  | nil => simp [lastStore]
  | cons c st ih =>
    obtain ⟨a, v⟩ := c
    by_cases h : i = a
    · simp [lastStore, h]
    · simp [lastStore, ih, h, Ne.symm h]

theorem storedByte_of_not_mem {m : Memory} {st : List Host.Cell} {i : Nat} (h : ∀ c ∈ st, c.1 ≠ i) :
    storedByte m st i = Memory.read m i := by
  simp [storedByte, lastStore_eq_none.2 h]

theorem Memory.writeAll_append (m : Memory) (st st' : List Host.Cell) :
    Memory.writeAll m (st ++ st') = Memory.writeAll (Memory.writeAll m st) st' := by
  induction st generalizing m with
  | nil => rfl
  | cons c st ih => exact ih _

/-- Two canonical memories that read the same everywhere are equal. -/
theorem Memory.ext_read {m n : Memory} (hm : Memory.wf m) (hn : Memory.wf n)
    (h : ∀ i, Memory.read m i = Memory.read n i) : m = n := by
  induction m generalizing n with
  | nil =>
    cases n with
    | nil => rfl
    | cons c n =>
      have := h c.1
      simp [Memory.read] at this
      exact absurd this.symm (hn.2 c (by simp))
  | cons c m ih =>
    obtain ⟨a, v⟩ := c
    obtain ⟨hp, hz⟩ := hm
    have hp' := List.pairwise_cons.1 hp
    have hv : v ≠ 0 := hz (a, v) (by simp)
    cases n with
    | nil =>
      have := h a
      simp [Memory.read] at this
      exact absurd this hv
    | cons d n =>
      obtain ⟨b, w⟩ := d
      obtain ⟨hq, hy⟩ := hn
      have hq' := List.pairwise_cons.1 hq
      have hw : w ≠ 0 := hy (b, w) (by simp)
      have low : ∀ k, k ≤ a → Memory.read m k = 0 := fun k hk =>
        Memory.read_eq_zero_of_lt fun c hc => by have := hp'.1 c hc; simp at this; omega
      have low' : ∀ k, k ≤ b → Memory.read n k = 0 := fun k hk =>
        Memory.read_eq_zero_of_lt fun c hc => by have := hq'.1 c hc; simp at this; omega
      have hab : a = b := by
        rcases Nat.lt_trichotomy a b with hlt | heq | hgt
        · have := h a
          simp [Memory.read, Nat.ne_of_lt hlt, low' a (by omega)] at this
          exact absurd this hv
        · exact heq
        · have := h b
          simp [Memory.read, Nat.ne_of_lt hgt, low b (by omega)] at this
          exact absurd this.symm hw
      subst hab
      have hvw : v = w := by simpa [Memory.read] using h a
      subst hvw
      have : m = n := ih ⟨hp'.2, fun c hc => hz c (by simp [hc])⟩ ⟨hq'.2, fun c hc => hy c (by simp [hc])⟩ fun i => by
        by_cases hi : i = a
        · subst hi; rw [low i (Nat.le_refl i), low' i (Nat.le_refl i)]
        · simpa [Memory.read, hi] using h i
      rw [this]

end Sys2Proof.Machine
end

