-- ==== Sys2Proof/Laws/State.lean ====
section
/-! SUPPORT. One lemma per field per update of State, each true by rfl, so that no proof unfolds a record update; and what the derived
readings (format, class, context) are after an update that does not touch what they depend on. -/

namespace Sys2Proof.Machine

@[simp] theorem State.cfgBusAddr_setPointer (s : State) (a c : Byte) : (s.setPointer a c).cfgBusAddr = s.cfgBusAddr := rfl
@[simp] theorem State.cfgPtype_setPointer (s : State) (a c : Byte) : (s.setPointer a c).cfgPtype = s.cfgPtype := rfl
@[simp] theorem State.cfgCount_setPointer (s : State) (a c : Byte) : (s.setPointer a c).cfgCount = s.cfgCount := rfl
@[simp] theorem State.cfgDefColor_setPointer (s : State) (a c : Byte) : (s.setPointer a c).cfgDefColor = s.cfgDefColor := rfl
@[simp] theorem State.curAddr_setPointer (s : State) (a c : Byte) : (s.setPointer a c).curAddr = a := rfl
@[simp] theorem State.cursor_setPointer (s : State) (a c : Byte) : (s.setPointer a c).cursor = c := rfl
@[simp] theorem State.resp_setPointer (s : State) (a c : Byte) : (s.setPointer a c).resp = s.resp := rfl
@[simp] theorem State.fb_setPointer (s : State) (a c : Byte) : (s.setPointer a c).fb = s.fb := rfl
@[simp] theorem State.dfr_setPointer (s : State) (a c : Byte) : (s.setPointer a c).dfr = s.dfr := rfl
@[simp] theorem State.copyIdx_setPointer (s : State) (a c : Byte) : (s.setPointer a c).copyIdx = s.copyIdx := rfl
@[simp] theorem State.ctrl_setPointer (s : State) (a c : Byte) : (s.setPointer a c).ctrl = s.ctrl := rfl
@[simp] theorem State.fillI_setPointer (s : State) (a c : Byte) : (s.setPointer a c).fillI = s.fillI := rfl
@[simp] theorem State.fillN_setPointer (s : State) (a c : Byte) : (s.setPointer a c).fillN = s.fillN := rfl
@[simp] theorem State.fillColor_setPointer (s : State) (a c : Byte) : (s.setPointer a c).fillColor = s.fillColor := rfl
@[simp] theorem State.nvK_setPointer (s : State) (a c : Byte) : (s.setPointer a c).nvK = s.nvK := rfl
@[simp] theorem State.nvImg_setPointer (s : State) (a c : Byte) : (s.setPointer a c).nvImg = s.nvImg := rfl
@[simp] theorem State.pwrOn_setPointer (s : State) (a c : Byte) : (s.setPointer a c).pwrOn = s.pwrOn := rfl
@[simp] theorem State.nv_setPointer (s : State) (a c : Byte) : (s.setPointer a c).nv = s.nv := rfl
@[simp] theorem State.wdtMode_setPointer (s : State) (a c : Byte) : (s.setPointer a c).wdtMode = s.wdtMode := rfl
@[simp] theorem State.par_setPointer (s : State) (a c : Byte) : (s.setPointer a c).par = s.par := rfl
@[simp] theorem State.inputs_setPointer (s : State) (a c : Byte) : (s.setPointer a c).inputs = s.inputs := rfl
@[simp] theorem State.trace_setPointer (s : State) (a c : Byte) : (s.setPointer a c).trace = s.trace := rfl
@[simp] theorem State.draws_setPointer (s : State) (a c : Byte) : (s.setPointer a c).draws = s.draws := rfl
@[simp] theorem State.fmt_setPointer (s : State) (a c : Byte) : (s.setPointer a c).fmt = s.fmt := rfl
@[simp] theorem State.bpp_setPointer (s : State) (a c : Byte) : (s.setPointer a c).bpp = s.bpp := rfl
@[simp] theorem State.logicalBytes_setPointer (s : State) (a c : Byte) : (s.setPointer a c).logicalBytes = s.logicalBytes := rfl
@[simp] theorem State.classOf_setPointer (s : State) (a c : Byte) (x : Byte) : (s.setPointer a c).classOf x = s.classOf x := rfl

@[simp] theorem State.cfgBusAddr_setCtrl (s : State) (c : Ctrl) : (s.setCtrl c).cfgBusAddr = s.cfgBusAddr := rfl
@[simp] theorem State.cfgPtype_setCtrl (s : State) (c : Ctrl) : (s.setCtrl c).cfgPtype = s.cfgPtype := rfl
@[simp] theorem State.cfgCount_setCtrl (s : State) (c : Ctrl) : (s.setCtrl c).cfgCount = s.cfgCount := rfl
@[simp] theorem State.cfgDefColor_setCtrl (s : State) (c : Ctrl) : (s.setCtrl c).cfgDefColor = s.cfgDefColor := rfl
@[simp] theorem State.curAddr_setCtrl (s : State) (c : Ctrl) : (s.setCtrl c).curAddr = s.curAddr := rfl
@[simp] theorem State.cursor_setCtrl (s : State) (c : Ctrl) : (s.setCtrl c).cursor = s.cursor := rfl
@[simp] theorem State.resp_setCtrl (s : State) (c : Ctrl) : (s.setCtrl c).resp = s.resp := rfl
@[simp] theorem State.fb_setCtrl (s : State) (c : Ctrl) : (s.setCtrl c).fb = s.fb := rfl
@[simp] theorem State.dfr_setCtrl (s : State) (c : Ctrl) : (s.setCtrl c).dfr = s.dfr := rfl
@[simp] theorem State.copyIdx_setCtrl (s : State) (c : Ctrl) : (s.setCtrl c).copyIdx = s.copyIdx := rfl
@[simp] theorem State.ctrl_setCtrl (s : State) (c : Ctrl) : (s.setCtrl c).ctrl = c := rfl
@[simp] theorem State.fillI_setCtrl (s : State) (c : Ctrl) : (s.setCtrl c).fillI = s.fillI := rfl
@[simp] theorem State.fillN_setCtrl (s : State) (c : Ctrl) : (s.setCtrl c).fillN = s.fillN := rfl
@[simp] theorem State.fillColor_setCtrl (s : State) (c : Ctrl) : (s.setCtrl c).fillColor = s.fillColor := rfl
@[simp] theorem State.nvK_setCtrl (s : State) (c : Ctrl) : (s.setCtrl c).nvK = s.nvK := rfl
@[simp] theorem State.nvImg_setCtrl (s : State) (c : Ctrl) : (s.setCtrl c).nvImg = s.nvImg := rfl
@[simp] theorem State.pwrOn_setCtrl (s : State) (c : Ctrl) : (s.setCtrl c).pwrOn = s.pwrOn := rfl
@[simp] theorem State.nv_setCtrl (s : State) (c : Ctrl) : (s.setCtrl c).nv = s.nv := rfl
@[simp] theorem State.wdtMode_setCtrl (s : State) (c : Ctrl) : (s.setCtrl c).wdtMode = s.wdtMode := rfl
@[simp] theorem State.par_setCtrl (s : State) (c : Ctrl) : (s.setCtrl c).par = s.par := rfl
@[simp] theorem State.inputs_setCtrl (s : State) (c : Ctrl) : (s.setCtrl c).inputs = s.inputs := rfl
@[simp] theorem State.trace_setCtrl (s : State) (c : Ctrl) : (s.setCtrl c).trace = s.trace := rfl
@[simp] theorem State.draws_setCtrl (s : State) (c : Ctrl) : (s.setCtrl c).draws = s.draws := rfl
@[simp] theorem State.fmt_setCtrl (s : State) (c : Ctrl) : (s.setCtrl c).fmt = s.fmt := rfl
@[simp] theorem State.bpp_setCtrl (s : State) (c : Ctrl) : (s.setCtrl c).bpp = s.bpp := rfl
@[simp] theorem State.logicalBytes_setCtrl (s : State) (c : Ctrl) : (s.setCtrl c).logicalBytes = s.logicalBytes := rfl
@[simp] theorem State.classOf_setCtrl (s : State) (c : Ctrl) (x : Byte) : (s.setCtrl c).classOf x = s.classOf x := rfl
@[simp] theorem State.ctx_setCtrl (s : State) (c : Ctrl) : (s.setCtrl c).ctx = s.ctx := rfl

@[simp] theorem State.cfgBusAddr_withFb (s : State) (m : Memory) : (s.withFb m).cfgBusAddr = s.cfgBusAddr := rfl
@[simp] theorem State.cfgPtype_withFb (s : State) (m : Memory) : (s.withFb m).cfgPtype = s.cfgPtype := rfl
@[simp] theorem State.cfgCount_withFb (s : State) (m : Memory) : (s.withFb m).cfgCount = s.cfgCount := rfl
@[simp] theorem State.cfgDefColor_withFb (s : State) (m : Memory) : (s.withFb m).cfgDefColor = s.cfgDefColor := rfl
@[simp] theorem State.curAddr_withFb (s : State) (m : Memory) : (s.withFb m).curAddr = s.curAddr := rfl
@[simp] theorem State.cursor_withFb (s : State) (m : Memory) : (s.withFb m).cursor = s.cursor := rfl
@[simp] theorem State.resp_withFb (s : State) (m : Memory) : (s.withFb m).resp = s.resp := rfl
@[simp] theorem State.fb_withFb (s : State) (m : Memory) : (s.withFb m).fb = m := rfl
@[simp] theorem State.dfr_withFb (s : State) (m : Memory) : (s.withFb m).dfr = s.dfr := rfl
@[simp] theorem State.copyIdx_withFb (s : State) (m : Memory) : (s.withFb m).copyIdx = s.copyIdx := rfl
@[simp] theorem State.ctrl_withFb (s : State) (m : Memory) : (s.withFb m).ctrl = s.ctrl := rfl
@[simp] theorem State.fillI_withFb (s : State) (m : Memory) : (s.withFb m).fillI = s.fillI := rfl
@[simp] theorem State.fillN_withFb (s : State) (m : Memory) : (s.withFb m).fillN = s.fillN := rfl
@[simp] theorem State.fillColor_withFb (s : State) (m : Memory) : (s.withFb m).fillColor = s.fillColor := rfl
@[simp] theorem State.nvK_withFb (s : State) (m : Memory) : (s.withFb m).nvK = s.nvK := rfl
@[simp] theorem State.nvImg_withFb (s : State) (m : Memory) : (s.withFb m).nvImg = s.nvImg := rfl
@[simp] theorem State.pwrOn_withFb (s : State) (m : Memory) : (s.withFb m).pwrOn = s.pwrOn := rfl
@[simp] theorem State.nv_withFb (s : State) (m : Memory) : (s.withFb m).nv = s.nv := rfl
@[simp] theorem State.wdtMode_withFb (s : State) (m : Memory) : (s.withFb m).wdtMode = s.wdtMode := rfl
@[simp] theorem State.par_withFb (s : State) (m : Memory) : (s.withFb m).par = s.par := rfl
@[simp] theorem State.inputs_withFb (s : State) (m : Memory) : (s.withFb m).inputs = s.inputs := rfl
@[simp] theorem State.trace_withFb (s : State) (m : Memory) : (s.withFb m).trace = s.trace := rfl
@[simp] theorem State.draws_withFb (s : State) (m : Memory) : (s.withFb m).draws = s.draws := rfl
@[simp] theorem State.fmt_withFb (s : State) (m : Memory) : (s.withFb m).fmt = s.fmt := rfl
@[simp] theorem State.bpp_withFb (s : State) (m : Memory) : (s.withFb m).bpp = s.bpp := rfl
@[simp] theorem State.logicalBytes_withFb (s : State) (m : Memory) : (s.withFb m).logicalBytes = s.logicalBytes := rfl
@[simp] theorem State.classOf_withFb (s : State) (m : Memory) (x : Byte) : (s.withFb m).classOf x = s.classOf x := rfl
@[simp] theorem State.ctx_withFb (s : State) (m : Memory) : (s.withFb m).ctx = s.ctx := rfl

@[simp] theorem State.cfgBusAddr_tookDraws (s : State) (n : Nat) : (s.tookDraws n).cfgBusAddr = s.cfgBusAddr := rfl
@[simp] theorem State.cfgPtype_tookDraws (s : State) (n : Nat) : (s.tookDraws n).cfgPtype = s.cfgPtype := rfl
@[simp] theorem State.cfgCount_tookDraws (s : State) (n : Nat) : (s.tookDraws n).cfgCount = s.cfgCount := rfl
@[simp] theorem State.cfgDefColor_tookDraws (s : State) (n : Nat) : (s.tookDraws n).cfgDefColor = s.cfgDefColor := rfl
@[simp] theorem State.curAddr_tookDraws (s : State) (n : Nat) : (s.tookDraws n).curAddr = s.curAddr := rfl
@[simp] theorem State.cursor_tookDraws (s : State) (n : Nat) : (s.tookDraws n).cursor = s.cursor := rfl
@[simp] theorem State.resp_tookDraws (s : State) (n : Nat) : (s.tookDraws n).resp = s.resp := rfl
@[simp] theorem State.fb_tookDraws (s : State) (n : Nat) : (s.tookDraws n).fb = s.fb := rfl
@[simp] theorem State.dfr_tookDraws (s : State) (n : Nat) : (s.tookDraws n).dfr = s.dfr := rfl
@[simp] theorem State.copyIdx_tookDraws (s : State) (n : Nat) : (s.tookDraws n).copyIdx = s.copyIdx := rfl
@[simp] theorem State.ctrl_tookDraws (s : State) (n : Nat) : (s.tookDraws n).ctrl = s.ctrl := rfl
@[simp] theorem State.fillI_tookDraws (s : State) (n : Nat) : (s.tookDraws n).fillI = s.fillI := rfl
@[simp] theorem State.fillN_tookDraws (s : State) (n : Nat) : (s.tookDraws n).fillN = s.fillN := rfl
@[simp] theorem State.fillColor_tookDraws (s : State) (n : Nat) : (s.tookDraws n).fillColor = s.fillColor := rfl
@[simp] theorem State.nvK_tookDraws (s : State) (n : Nat) : (s.tookDraws n).nvK = s.nvK := rfl
@[simp] theorem State.nvImg_tookDraws (s : State) (n : Nat) : (s.tookDraws n).nvImg = s.nvImg := rfl
@[simp] theorem State.pwrOn_tookDraws (s : State) (n : Nat) : (s.tookDraws n).pwrOn = s.pwrOn := rfl
@[simp] theorem State.nv_tookDraws (s : State) (n : Nat) : (s.tookDraws n).nv = s.nv := rfl
@[simp] theorem State.wdtMode_tookDraws (s : State) (n : Nat) : (s.tookDraws n).wdtMode = s.wdtMode := rfl
@[simp] theorem State.par_tookDraws (s : State) (n : Nat) : (s.tookDraws n).par = s.par := rfl
@[simp] theorem State.inputs_tookDraws (s : State) (n : Nat) : (s.tookDraws n).inputs = s.inputs := rfl
@[simp] theorem State.trace_tookDraws (s : State) (n : Nat) : (s.tookDraws n).trace = s.trace := rfl
@[simp] theorem State.draws_tookDraws (s : State) (n : Nat) : (s.tookDraws n).draws = s.draws + n := rfl
@[simp] theorem State.fmt_tookDraws (s : State) (n : Nat) : (s.tookDraws n).fmt = s.fmt := rfl
@[simp] theorem State.bpp_tookDraws (s : State) (n : Nat) : (s.tookDraws n).bpp = s.bpp := rfl
@[simp] theorem State.logicalBytes_tookDraws (s : State) (n : Nat) : (s.tookDraws n).logicalBytes = s.logicalBytes := rfl
@[simp] theorem State.classOf_tookDraws (s : State) (n : Nat) (x : Byte) : (s.tookDraws n).classOf x = s.classOf x := rfl
@[simp] theorem State.ctx_tookDraws (s : State) (n : Nat) : (s.tookDraws n).ctx = s.ctx := rfl

@[simp] theorem State.cfgBusAddr_emit (s : State) (e : Event) : (s.emit e).cfgBusAddr = s.cfgBusAddr := rfl
@[simp] theorem State.cfgPtype_emit (s : State) (e : Event) : (s.emit e).cfgPtype = s.cfgPtype := rfl
@[simp] theorem State.cfgCount_emit (s : State) (e : Event) : (s.emit e).cfgCount = s.cfgCount := rfl
@[simp] theorem State.cfgDefColor_emit (s : State) (e : Event) : (s.emit e).cfgDefColor = s.cfgDefColor := rfl
@[simp] theorem State.curAddr_emit (s : State) (e : Event) : (s.emit e).curAddr = s.curAddr := rfl
@[simp] theorem State.cursor_emit (s : State) (e : Event) : (s.emit e).cursor = s.cursor := rfl
@[simp] theorem State.resp_emit (s : State) (e : Event) : (s.emit e).resp = s.resp := rfl
@[simp] theorem State.fb_emit (s : State) (e : Event) : (s.emit e).fb = s.fb := rfl
@[simp] theorem State.dfr_emit (s : State) (e : Event) : (s.emit e).dfr = s.dfr := rfl
@[simp] theorem State.copyIdx_emit (s : State) (e : Event) : (s.emit e).copyIdx = s.copyIdx := rfl
@[simp] theorem State.ctrl_emit (s : State) (e : Event) : (s.emit e).ctrl = s.ctrl := rfl
@[simp] theorem State.fillI_emit (s : State) (e : Event) : (s.emit e).fillI = s.fillI := rfl
@[simp] theorem State.fillN_emit (s : State) (e : Event) : (s.emit e).fillN = s.fillN := rfl
@[simp] theorem State.fillColor_emit (s : State) (e : Event) : (s.emit e).fillColor = s.fillColor := rfl
@[simp] theorem State.nvK_emit (s : State) (e : Event) : (s.emit e).nvK = s.nvK := rfl
@[simp] theorem State.nvImg_emit (s : State) (e : Event) : (s.emit e).nvImg = s.nvImg := rfl
@[simp] theorem State.pwrOn_emit (s : State) (e : Event) : (s.emit e).pwrOn = s.pwrOn := rfl
@[simp] theorem State.nv_emit (s : State) (e : Event) : (s.emit e).nv = s.nv := rfl
@[simp] theorem State.wdtMode_emit (s : State) (e : Event) : (s.emit e).wdtMode = s.wdtMode := rfl
@[simp] theorem State.par_emit (s : State) (e : Event) : (s.emit e).par = s.par := rfl
@[simp] theorem State.inputs_emit (s : State) (e : Event) : (s.emit e).inputs = s.inputs := rfl
@[simp] theorem State.trace_emit (s : State) (e : Event) : (s.emit e).trace = s.trace ++ [e] := rfl
@[simp] theorem State.draws_emit (s : State) (e : Event) : (s.emit e).draws = s.draws := rfl
@[simp] theorem State.fmt_emit (s : State) (e : Event) : (s.emit e).fmt = s.fmt := rfl
@[simp] theorem State.bpp_emit (s : State) (e : Event) : (s.emit e).bpp = s.bpp := rfl
@[simp] theorem State.logicalBytes_emit (s : State) (e : Event) : (s.emit e).logicalBytes = s.logicalBytes := rfl
@[simp] theorem State.classOf_emit (s : State) (e : Event) (x : Byte) : (s.emit e).classOf x = s.classOf x := rfl
@[simp] theorem State.ctx_emit (s : State) (e : Event) : (s.emit e).ctx = s.ctx := rfl

@[simp] theorem State.cfgBusAddr_setFlag (s : State) (f : Flag) : (s.setFlag f).cfgBusAddr = s.cfgBusAddr := rfl
@[simp] theorem State.cfgPtype_setFlag (s : State) (f : Flag) : (s.setFlag f).cfgPtype = s.cfgPtype := rfl
@[simp] theorem State.cfgCount_setFlag (s : State) (f : Flag) : (s.setFlag f).cfgCount = s.cfgCount := rfl
@[simp] theorem State.cfgDefColor_setFlag (s : State) (f : Flag) : (s.setFlag f).cfgDefColor = s.cfgDefColor := rfl
@[simp] theorem State.curAddr_setFlag (s : State) (f : Flag) : (s.setFlag f).curAddr = s.curAddr := rfl
@[simp] theorem State.cursor_setFlag (s : State) (f : Flag) : (s.setFlag f).cursor = s.cursor := rfl
@[simp] theorem State.resp_setFlag (s : State) (f : Flag) : (s.setFlag f).resp = s.resp := rfl
@[simp] theorem State.fb_setFlag (s : State) (f : Flag) : (s.setFlag f).fb = s.fb := rfl
@[simp] theorem State.dfr_setFlag (s : State) (f : Flag) : (s.setFlag f).dfr = s.dfr.put f true := rfl
@[simp] theorem State.copyIdx_setFlag (s : State) (f : Flag) : (s.setFlag f).copyIdx = s.copyIdx := rfl
@[simp] theorem State.ctrl_setFlag (s : State) (f : Flag) : (s.setFlag f).ctrl = s.ctrl := rfl
@[simp] theorem State.fillI_setFlag (s : State) (f : Flag) : (s.setFlag f).fillI = s.fillI := rfl
@[simp] theorem State.fillN_setFlag (s : State) (f : Flag) : (s.setFlag f).fillN = s.fillN := rfl
@[simp] theorem State.fillColor_setFlag (s : State) (f : Flag) : (s.setFlag f).fillColor = s.fillColor := rfl
@[simp] theorem State.nvK_setFlag (s : State) (f : Flag) : (s.setFlag f).nvK = s.nvK := rfl
@[simp] theorem State.nvImg_setFlag (s : State) (f : Flag) : (s.setFlag f).nvImg = s.nvImg := rfl
@[simp] theorem State.pwrOn_setFlag (s : State) (f : Flag) : (s.setFlag f).pwrOn = s.pwrOn := rfl
@[simp] theorem State.nv_setFlag (s : State) (f : Flag) : (s.setFlag f).nv = s.nv := rfl
@[simp] theorem State.wdtMode_setFlag (s : State) (f : Flag) : (s.setFlag f).wdtMode = s.wdtMode := rfl
@[simp] theorem State.par_setFlag (s : State) (f : Flag) : (s.setFlag f).par = s.par := rfl
@[simp] theorem State.inputs_setFlag (s : State) (f : Flag) : (s.setFlag f).inputs = s.inputs := rfl
@[simp] theorem State.trace_setFlag (s : State) (f : Flag) : (s.setFlag f).trace = s.trace := rfl
@[simp] theorem State.draws_setFlag (s : State) (f : Flag) : (s.setFlag f).draws = s.draws := rfl
@[simp] theorem State.fmt_setFlag (s : State) (f : Flag) : (s.setFlag f).fmt = s.fmt := rfl
@[simp] theorem State.bpp_setFlag (s : State) (f : Flag) : (s.setFlag f).bpp = s.bpp := rfl
@[simp] theorem State.logicalBytes_setFlag (s : State) (f : Flag) : (s.setFlag f).logicalBytes = s.logicalBytes := rfl
@[simp] theorem State.classOf_setFlag (s : State) (f : Flag) (x : Byte) : (s.setFlag f).classOf x = s.classOf x := rfl
@[simp] theorem State.ctx_setFlag (s : State) (f : Flag) : (s.setFlag f).ctx = s.ctx := rfl

@[simp] theorem State.cfgBusAddr_clearFlag (s : State) (f : Flag) : (s.clearFlag f).cfgBusAddr = s.cfgBusAddr := rfl
@[simp] theorem State.cfgPtype_clearFlag (s : State) (f : Flag) : (s.clearFlag f).cfgPtype = s.cfgPtype := rfl
@[simp] theorem State.cfgCount_clearFlag (s : State) (f : Flag) : (s.clearFlag f).cfgCount = s.cfgCount := rfl
@[simp] theorem State.cfgDefColor_clearFlag (s : State) (f : Flag) : (s.clearFlag f).cfgDefColor = s.cfgDefColor := rfl
@[simp] theorem State.curAddr_clearFlag (s : State) (f : Flag) : (s.clearFlag f).curAddr = s.curAddr := rfl
@[simp] theorem State.cursor_clearFlag (s : State) (f : Flag) : (s.clearFlag f).cursor = s.cursor := rfl
@[simp] theorem State.resp_clearFlag (s : State) (f : Flag) : (s.clearFlag f).resp = s.resp := rfl
@[simp] theorem State.fb_clearFlag (s : State) (f : Flag) : (s.clearFlag f).fb = s.fb := rfl
@[simp] theorem State.dfr_clearFlag (s : State) (f : Flag) : (s.clearFlag f).dfr = s.dfr.put f false := rfl
@[simp] theorem State.copyIdx_clearFlag (s : State) (f : Flag) : (s.clearFlag f).copyIdx = s.copyIdx := rfl
@[simp] theorem State.ctrl_clearFlag (s : State) (f : Flag) : (s.clearFlag f).ctrl = s.ctrl := rfl
@[simp] theorem State.fillI_clearFlag (s : State) (f : Flag) : (s.clearFlag f).fillI = s.fillI := rfl
@[simp] theorem State.fillN_clearFlag (s : State) (f : Flag) : (s.clearFlag f).fillN = s.fillN := rfl
@[simp] theorem State.fillColor_clearFlag (s : State) (f : Flag) : (s.clearFlag f).fillColor = s.fillColor := rfl
@[simp] theorem State.nvK_clearFlag (s : State) (f : Flag) : (s.clearFlag f).nvK = s.nvK := rfl
@[simp] theorem State.nvImg_clearFlag (s : State) (f : Flag) : (s.clearFlag f).nvImg = s.nvImg := rfl
@[simp] theorem State.pwrOn_clearFlag (s : State) (f : Flag) : (s.clearFlag f).pwrOn = s.pwrOn := rfl
@[simp] theorem State.nv_clearFlag (s : State) (f : Flag) : (s.clearFlag f).nv = s.nv := rfl
@[simp] theorem State.wdtMode_clearFlag (s : State) (f : Flag) : (s.clearFlag f).wdtMode = s.wdtMode := rfl
@[simp] theorem State.par_clearFlag (s : State) (f : Flag) : (s.clearFlag f).par = s.par := rfl
@[simp] theorem State.inputs_clearFlag (s : State) (f : Flag) : (s.clearFlag f).inputs = s.inputs := rfl
@[simp] theorem State.trace_clearFlag (s : State) (f : Flag) : (s.clearFlag f).trace = s.trace := rfl
@[simp] theorem State.draws_clearFlag (s : State) (f : Flag) : (s.clearFlag f).draws = s.draws := rfl
@[simp] theorem State.fmt_clearFlag (s : State) (f : Flag) : (s.clearFlag f).fmt = s.fmt := rfl
@[simp] theorem State.bpp_clearFlag (s : State) (f : Flag) : (s.clearFlag f).bpp = s.bpp := rfl
@[simp] theorem State.logicalBytes_clearFlag (s : State) (f : Flag) : (s.clearFlag f).logicalBytes = s.logicalBytes := rfl
@[simp] theorem State.classOf_clearFlag (s : State) (f : Flag) (x : Byte) : (s.clearFlag f).classOf x = s.classOf x := rfl
@[simp] theorem State.ctx_clearFlag (s : State) (f : Flag) : (s.clearFlag f).ctx = s.ctx := rfl

@[simp] theorem State.cfgBusAddr_nvWrite (s : State) (f : NvField) (v : Byte) : (s.nvWrite f v).cfgBusAddr = s.cfgBusAddr := rfl
@[simp] theorem State.cfgPtype_nvWrite (s : State) (f : NvField) (v : Byte) : (s.nvWrite f v).cfgPtype = s.cfgPtype := rfl
@[simp] theorem State.cfgCount_nvWrite (s : State) (f : NvField) (v : Byte) : (s.nvWrite f v).cfgCount = s.cfgCount := rfl
@[simp] theorem State.cfgDefColor_nvWrite (s : State) (f : NvField) (v : Byte) : (s.nvWrite f v).cfgDefColor = s.cfgDefColor := rfl
@[simp] theorem State.curAddr_nvWrite (s : State) (f : NvField) (v : Byte) : (s.nvWrite f v).curAddr = s.curAddr := rfl
@[simp] theorem State.cursor_nvWrite (s : State) (f : NvField) (v : Byte) : (s.nvWrite f v).cursor = s.cursor := rfl
@[simp] theorem State.resp_nvWrite (s : State) (f : NvField) (v : Byte) : (s.nvWrite f v).resp = s.resp := rfl
@[simp] theorem State.fb_nvWrite (s : State) (f : NvField) (v : Byte) : (s.nvWrite f v).fb = s.fb := rfl
@[simp] theorem State.dfr_nvWrite (s : State) (f : NvField) (v : Byte) : (s.nvWrite f v).dfr = s.dfr := rfl
@[simp] theorem State.copyIdx_nvWrite (s : State) (f : NvField) (v : Byte) : (s.nvWrite f v).copyIdx = s.copyIdx := rfl
@[simp] theorem State.ctrl_nvWrite (s : State) (f : NvField) (v : Byte) : (s.nvWrite f v).ctrl = s.ctrl := rfl
@[simp] theorem State.fillI_nvWrite (s : State) (f : NvField) (v : Byte) : (s.nvWrite f v).fillI = s.fillI := rfl
@[simp] theorem State.fillN_nvWrite (s : State) (f : NvField) (v : Byte) : (s.nvWrite f v).fillN = s.fillN := rfl
@[simp] theorem State.fillColor_nvWrite (s : State) (f : NvField) (v : Byte) : (s.nvWrite f v).fillColor = s.fillColor := rfl
@[simp] theorem State.nvK_nvWrite (s : State) (f : NvField) (v : Byte) : (s.nvWrite f v).nvK = s.nvK := rfl
@[simp] theorem State.nvImg_nvWrite (s : State) (f : NvField) (v : Byte) : (s.nvWrite f v).nvImg = s.nvImg := rfl
@[simp] theorem State.pwrOn_nvWrite (s : State) (f : NvField) (v : Byte) : (s.nvWrite f v).pwrOn = s.pwrOn := rfl
@[simp] theorem State.nv_nvWrite (s : State) (f : NvField) (v : Byte) : (s.nvWrite f v).nv = s.nv.set f v := rfl
@[simp] theorem State.wdtMode_nvWrite (s : State) (f : NvField) (v : Byte) : (s.nvWrite f v).wdtMode = s.wdtMode := rfl
@[simp] theorem State.par_nvWrite (s : State) (f : NvField) (v : Byte) : (s.nvWrite f v).par = s.par := rfl
@[simp] theorem State.inputs_nvWrite (s : State) (f : NvField) (v : Byte) : (s.nvWrite f v).inputs = s.inputs := rfl
@[simp] theorem State.trace_nvWrite (s : State) (f : NvField) (v : Byte) : (s.nvWrite f v).trace = s.trace ++ [.nvWrite (s.par.nvBase + f.offset) v] := rfl
@[simp] theorem State.draws_nvWrite (s : State) (f : NvField) (v : Byte) : (s.nvWrite f v).draws = s.draws := rfl
@[simp] theorem State.fmt_nvWrite (s : State) (f : NvField) (v : Byte) : (s.nvWrite f v).fmt = s.fmt := rfl
@[simp] theorem State.bpp_nvWrite (s : State) (f : NvField) (v : Byte) : (s.nvWrite f v).bpp = s.bpp := rfl
@[simp] theorem State.logicalBytes_nvWrite (s : State) (f : NvField) (v : Byte) : (s.nvWrite f v).logicalBytes = s.logicalBytes := rfl
@[simp] theorem State.classOf_nvWrite (s : State) (f : NvField) (v : Byte) (x : Byte) : (s.nvWrite f v).classOf x = s.classOf x := rfl
@[simp] theorem State.ctx_nvWrite (s : State) (f : NvField) (v : Byte) : (s.nvWrite f v).ctx = s.ctx := rfl

@[simp] theorem State.cfgBusAddr_enterHalt (s : State) : (s.enterHalt).cfgBusAddr = s.cfgBusAddr := rfl
@[simp] theorem State.cfgPtype_enterHalt (s : State) : (s.enterHalt).cfgPtype = s.cfgPtype := rfl
@[simp] theorem State.cfgCount_enterHalt (s : State) : (s.enterHalt).cfgCount = s.cfgCount := rfl
@[simp] theorem State.cfgDefColor_enterHalt (s : State) : (s.enterHalt).cfgDefColor = s.cfgDefColor := rfl
@[simp] theorem State.curAddr_enterHalt (s : State) : (s.enterHalt).curAddr = s.curAddr := rfl
@[simp] theorem State.cursor_enterHalt (s : State) : (s.enterHalt).cursor = s.cursor := rfl
@[simp] theorem State.resp_enterHalt (s : State) : (s.enterHalt).resp = s.resp := rfl
@[simp] theorem State.fb_enterHalt (s : State) : (s.enterHalt).fb = s.fb := rfl
@[simp] theorem State.dfr_enterHalt (s : State) : (s.enterHalt).dfr = s.dfr := rfl
@[simp] theorem State.copyIdx_enterHalt (s : State) : (s.enterHalt).copyIdx = s.copyIdx := rfl
@[simp] theorem State.ctrl_enterHalt (s : State) : (s.enterHalt).ctrl = .halt := rfl
@[simp] theorem State.fillI_enterHalt (s : State) : (s.enterHalt).fillI = s.fillI := rfl
@[simp] theorem State.fillN_enterHalt (s : State) : (s.enterHalt).fillN = s.fillN := rfl
@[simp] theorem State.fillColor_enterHalt (s : State) : (s.enterHalt).fillColor = s.fillColor := rfl
@[simp] theorem State.nvK_enterHalt (s : State) : (s.enterHalt).nvK = s.nvK := rfl
@[simp] theorem State.nvImg_enterHalt (s : State) : (s.enterHalt).nvImg = s.nvImg := rfl
@[simp] theorem State.pwrOn_enterHalt (s : State) : (s.enterHalt).pwrOn = s.pwrOn := rfl
@[simp] theorem State.nv_enterHalt (s : State) : (s.enterHalt).nv = s.nv := rfl
@[simp] theorem State.wdtMode_enterHalt (s : State) : (s.enterHalt).wdtMode = .shortArmed := rfl
@[simp] theorem State.par_enterHalt (s : State) : (s.enterHalt).par = s.par := rfl
@[simp] theorem State.inputs_enterHalt (s : State) : (s.enterHalt).inputs = s.inputs := rfl
@[simp] theorem State.trace_enterHalt (s : State) : (s.enterHalt).trace = s.trace ++ [.wdtArmShort] := rfl
@[simp] theorem State.draws_enterHalt (s : State) : (s.enterHalt).draws = s.draws := rfl
@[simp] theorem State.fmt_enterHalt (s : State) : (s.enterHalt).fmt = s.fmt := rfl
@[simp] theorem State.bpp_enterHalt (s : State) : (s.enterHalt).bpp = s.bpp := rfl
@[simp] theorem State.logicalBytes_enterHalt (s : State) : (s.enterHalt).logicalBytes = s.logicalBytes := rfl
@[simp] theorem State.classOf_enterHalt (s : State) (x : Byte) : (s.enterHalt).classOf x = s.classOf x := rfl
@[simp] theorem State.ctx_enterHalt (s : State) : (s.enterHalt).ctx = s.ctx := rfl

/-! ### Flags -/

@[simp] theorem Dfr.get_put (d : Dfr) (f g : Flag) (v : Bool) : (d.put f v).get g = if g = f then v else d.get g := by
  cases f <;> cases g <;> rfl

@[simp] theorem Dfr.pending_none : Dfr.none.pending = [] := rfl

theorem Dfr.mem_pending (d : Dfr) (f : Flag) : f ∈ d.pending ↔ d.get f = true := by
  cases f <;> simp [Dfr.pending, Flag.all]

theorem Dfr.pending_eq_nil (d : Dfr) : d.pending = [] ↔ d = Dfr.none := by
  obtain ⟨a, b, c, e, f, g⟩ := d
  cases a <;> cases b <;> cases c <;> cases e <;> cases f <;> cases g <;> decide

/-! ### The NV record -/

@[simp] theorem NvRecord.get_set (n : NvRecord) (f f' : NvField) (v : Byte) :
    (n.set f v).get f' = if f' = f then v else n.get f' := by
  cases f <;> cases f' <;> rfl

/-- A record is its nine bytes. -/
theorem NvRecord.ext_get {n m : NvRecord} (h : ∀ f, n.get f = m.get f) : n = m := by
  obtain ⟨n0, n1, n2, n3, n4, n5, n6, n7, n8⟩ := n
  obtain ⟨m0, m1, m2, m3, m4, m5, m6, m7, m8⟩ := m
  have h0 := h .magic
  have h1 := h .busAddr
  have h2 := h .ptypeHi
  have h3 := h .ptypeLo
  have h4 := h .count
  have h5 := h .r
  have h6 := h .g
  have h7 := h .b
  have h8 := h .w
  simp only [NvRecord.get] at h0 h1 h2 h3 h4 h5 h6 h7 h8
  subst h0 h1 h2 h3 h4 h5 h6 h7 h8
  rfl

end Sys2Proof.Machine
end

