-- ==== Sys2Proof/Laws/Operands.lean ====
section
/-! SUPPORT. Where the pixel accessors, the bulk operations and the register walk store, and what they leave there. -/

namespace Sys2Proof.Machine

theorem State.bpp_bounds (s : State) : 3 ≤ s.bpp ∧ s.bpp ≤ 4 := Bpp.bounds _

/-- A pixel below `MAX_LEDS` lies inside the buffer (R58). -/
theorem pixel_lt_fbBytes {p : Params} {q n i : Nat} (hq : q < p.maxLeds) (hn : n ≤ 4) (hi : i < q * n + n) :
    i < p.fbBytes := by
  have h1 : q * n + n ≤ q * 4 + 4 := by
    have := Nat.mul_le_mul_left q hn
    omega
  unfold Params.fbBytes
  omega

/-- The logical bytes lie inside the buffer (R58). -/
theorem logical_le_fbBytes {p : Params} {count n : Nat} (hc : count ≤ p.maxLeds) (hn : n ≤ 4) : count * n ≤ p.fbBytes :=
  Nat.mul_le_mul hc hn

/-! ### Pixel writes -/

theorem mem_channelStore {n base : Nat} {off : BitVec 2} {v : Byte} {c : Host.Cell} (h : c ∈ channelStore n base off v) :
    off.toNat < n ∧ c = (base + off.toNat, v) := by
  unfold channelStore at h
  split at h
  · exact ⟨‹_›, by simpa using h⟩
  · simp at h

/-- A pixel write touches its own pixel's bytes only (R42). -/
theorem mem_pixelStores {f : PixelFormat} {q : Nat} {col : Color} {c : Host.Cell} (h : c ∈ pixelStores f q col) :
    q * f.bpp.toNat ≤ c.1 ∧ c.1 < q * f.bpp.toNat + f.bpp.toNat := by
  have key : ∀ (off : BitVec 2) (v : Byte), c ∈ channelStore f.bpp.toNat (q * f.bpp.toNat) off v →
      q * f.bpp.toNat ≤ c.1 ∧ c.1 < q * f.bpp.toNat + f.bpp.toNat := by
    intro off v hc
    obtain ⟨h1, h2⟩ := mem_channelStore hc
    subst h2
    exact ⟨by simp, by simp; exact h1⟩
  simp only [pixelStores, List.mem_append] at h
  rcases h with ((h | h) | h) | h
  · exact key _ _ h
  · exact key _ _ h
  · exact key _ _ h
  · split at h
    · exact key _ _ h
    · simp at h

theorem pixelStores_range {p : Params} {f : PixelFormat} {q : Nat} {col : Color} (hq : q < p.maxLeds) :
    ∀ c ∈ pixelStores f q col, c.1 < p.fbBytes := fun _ hc =>
  pixel_lt_fbBytes hq (Bpp.bounds f.bpp).2 (mem_pixelStores hc).2

theorem pixelIndices_range {p : Params} {f : PixelFormat} {q : Nat} (hq : q < p.maxLeds) :
    ∀ i ∈ pixelIndices f q, i < p.fbBytes := by
  intro i hi
  simp only [pixelIndices, List.mem_map, List.mem_range] at hi
  obtain ⟨j, hj, rfl⟩ := hi
  exact pixel_lt_fbBytes hq (Bpp.bounds f.bpp).2 (by omega)

/-! ### Bulk operations -/

theorem fillStores_range {p : Params} {f : PixelFormat} {count : Nat} {col : Color} (hc : count ≤ p.maxLeds) :
    ∀ c ∈ fillStores f count col, c.1 < p.fbBytes := by
  intro c h
  simp only [fillStores, List.mem_flatMap, List.mem_range] at h
  obtain ⟨q, hq, h⟩ := h
  exact pixelStores_range (by omega) c h

theorem fillStores_succ (f : PixelFormat) (n : Nat) (col : Color) :
    fillStores f (n + 1) col = fillStores f n col ++ pixelStores f n col := by
  simp [fillStores, List.range_succ]

/-- A fill touches the logical bytes only (R44). -/
theorem mem_fillStores {f : PixelFormat} {count : Nat} {col : Color} {c : Host.Cell} (h : c ∈ fillStores f count col) :
    c.1 < count * f.bpp.toNat := by
  simp only [fillStores, List.mem_flatMap, List.mem_range] at h
  obtain ⟨q, hq, h⟩ := h
  have h1 := (mem_pixelStores h).2
  have h2 := Nat.mul_le_mul_right f.bpp.toNat (Nat.succ_le_of_lt hq)
  rw [Nat.succ_mul] at h2
  omega

theorem lastStore_map_range (g : Nat → Byte) (n i : Nat) :
    lastStore ((List.range n).map fun j => (j, g j)) i = if i < n then some (g i) else none := by
  induction n with
  | zero => simp [lastStore]
  | succ n ih =>
    rw [List.range_succ, List.map_append, lastStore_append, ih]
    by_cases h : i = n
    · subst h; simp [lastStore]
    · by_cases h' : i < n <;> simp [lastStore, h, h'] <;> omega

theorem lastStore_zeroStores (n i : Nat) : lastStore (zeroStores n) i = if i < n then some 0 else none :=
  lastStore_map_range (fun _ => 0) n i

theorem lastStore_rainbowStores (d n i : Nat) :
    lastStore (rainbowStores d n) i = if i < n then some (Config.freeByte (d + i)) else none :=
  lastStore_map_range (fun j => Config.freeByte (d + j)) n i

theorem zeroStores_lt {n : Nat} : ∀ c ∈ zeroStores n, c.1 < n := by
  intro c hc
  simp only [zeroStores, List.mem_map, List.mem_range] at hc
  obtain ⟨j, hj, rfl⟩ := hc
  exact hj

theorem rainbowStores_lt {d n : Nat} : ∀ c ∈ rainbowStores d n, c.1 < n := by
  intro c hc
  simp only [rainbowStores, List.mem_map, List.mem_range] at hc
  obtain ⟨j, hj, rfl⟩ := hc
  exact hj

/-! ### Register walk -/

theorem fbIndex_lt {count n : Nat} {a c : Byte} (ha : 1 ≤ a.toNat) (hac : a.toNat ≤ count) (hc : c.toNat < n) :
    fbIndex n a c < count * n := by
  unfold fbIndex
  have h := Nat.mul_le_mul_right n (show a.toNat - 1 + 1 ≤ count by omega)
  rw [Nat.succ_mul] at h
  omega

/-- The pointer never leaves the LED window by advancing (R39). -/
theorem advance_valid {count : Byte} {n : Nat} {a c : Byte} (hn : 3 ≤ n) (hn' : n ≤ 4)
    (ha : 1 ≤ a.toNat) (hac : a.toNat ≤ count.toNat) (hc : c.toNat < n) :
    1 ≤ (advance count n a c).1.toNat ∧ (advance count n a c).1.toNat ≤ count.toNat ∧ (advance count n a c).2.toNat < n := by
  unfold advance
  have hlt := count.isLt
  split
  · refine ⟨ha, hac, ?_⟩
    simp only [BitVec.toNat_add]
    simp
    omega
  · split
    · refine ⟨by simp, by simp; omega, by simp; omega⟩
    · have hne : a.toNat ≠ count.toNat := fun h => ‹¬ a = count› (BitVec.eq_of_toNat_eq h)
      have : (a + 1).toNat = a.toNat + 1 := by
        simp only [BitVec.toNat_add]
        simp
        omega
      refine ⟨?_, ?_, by simp; omega⟩
      · show 1 ≤ (a + 1).toNat
        omega
      · show (a + 1).toNat ≤ count.toNat
        omega

/-- Advancing is the next index, and after the last index of the window the first (R39). -/
theorem fbIndex_advance {count : Byte} {n : Nat} {a c : Byte} (hn : 3 ≤ n) (hn' : n ≤ 4)
    (ha : 1 ≤ a.toNat) (hac : a.toNat ≤ count.toNat) (hc : c.toNat < n) :
    fbIndex n (advance count n a c).1 (advance count n a c).2 = (fbIndex n a c + 1) % (count.toNat * n) := by
  have hlt := count.isLt
  have hb := fbIndex_lt (count := count.toNat) ha hac hc
  unfold advance
  split
  · have h1 : (c + 1).toNat = c.toNat + 1 := by
      simp only [BitVec.toNat_add]
      simp
      omega
    have h2 : fbIndex n a (c + 1) = fbIndex n a c + 1 := by simp only [fbIndex, h1]; omega
    have h3 := fbIndex_lt (count := count.toNat) (n := n) (a := a) (c := c + 1) ha hac (by omega)
    rw [h2] at h3
    rw [Nat.mod_eq_of_lt h3]
    exact h2
  · split
    · subst count
      have : fbIndex n a c + 1 = a.toNat * n := by
        have h := Nat.succ_mul (a.toNat - 1) n
        rw [show (a.toNat - 1).succ = a.toNat by omega] at h
        simp only [fbIndex]
        omega
      rw [this, Nat.mod_self]
      simp [fbIndex]
    · have hne : a.toNat ≠ count.toNat := fun h => ‹¬ a = count› (BitVec.eq_of_toNat_eq h)
      have h1 : (a + 1).toNat = a.toNat + 1 := by
        simp only [BitVec.toNat_add]
        simp
        omega
      have h2 : fbIndex n (a + 1) 0 = fbIndex n a c + 1 := by
        have h := Nat.succ_mul (a.toNat - 1) n
        rw [show (a.toNat - 1).succ = a.toNat by omega] at h
        simp only [fbIndex, h1]
        simp
        omega
      have h3 := fbIndex_lt (count := count.toNat) (n := n) (a := a + 1) (c := 0) (by omega) (by omega) (by simp; omega)
      rw [h2] at h3
      rw [Nat.mod_eq_of_lt h3]
      exact h2

theorem regWalk_lt {count : Byte} {n : Nat} (hn : 3 ≤ n) (hn' : n ≤ 4) (ds : List Byte) {a c : Byte}
    (ha : 1 ≤ a.toNat) (hac : a.toNat ≤ count.toNat) (hc : c.toNat < n) :
    ∀ x ∈ (regWalk count n a c ds).1, x.1 < count.toNat * n := by
  induction ds generalizing a c with
  | nil => simp [regWalk]
  | cons d ds ih =>
    obtain ⟨h1, h2, h3⟩ := advance_valid (count := count) hn hn' ha hac hc
    intro x hx
    simp only [regWalk, List.mem_cons] at hx
    rcases hx with rfl | hx
    · exact fbIndex_lt ha hac hc
    · exact ih h1 h2 h3 x hx

theorem regWalk_valid {count : Byte} {n : Nat} (hn : 3 ≤ n) (hn' : n ≤ 4) (ds : List Byte) {a c : Byte}
    (ha : 1 ≤ a.toNat) (hac : a.toNat ≤ count.toNat) (hc : c.toNat < n) :
    1 ≤ (regWalk count n a c ds).2.1.toNat ∧ (regWalk count n a c ds).2.1.toNat ≤ count.toNat ∧
      (regWalk count n a c ds).2.2.toNat < n := by
  induction ds generalizing a c with
  | nil => exact ⟨ha, hac, hc⟩
  | cons d ds ih =>
    obtain ⟨h1, h2, h3⟩ := advance_valid (count := count) hn hn' ha hac hc
    exact ih h1 h2 h3

/-! ### Arguments -/

theorem clampCount_toNat {p : Params} (hp : p.maxLeds ≤ 252) (v : Byte) :
    (clampCount p v).toNat = min (max v.toNat 1) p.maxLeds := by
  unfold clampCount
  rw [BitVec.toNat_ofNat]
  exact Nat.mod_eq_of_lt (by omega)

theorem clampCount_bounds {p : Params} (h1 : 1 ≤ p.maxLeds) (hp : p.maxLeds ≤ 252) (v : Byte) :
    1 ≤ (clampCount p v).toNat ∧ (clampCount p v).toNat ≤ p.maxLeds := by
  rw [clampCount_toNat hp]
  omega

end Sys2Proof.Machine
end

