-- ==== Sys2Proof/Laws/Ops.lean ====
section
/-! SUPPORT. One lemma for each shared operation that says everything it can do when it answers a next state, and one that says when it
does. -/

namespace Sys2Proof.Machine

variable {s t : State}

theorem fbStore_next_iff {st : List Host.Cell} {k : State → Result} :
    fbStore st s k = .next t ↔
      (∀ c ∈ st, c.1 < s.par.fbBytes) ∧ k (s.withFb (Memory.writeAll s.fb st)) = .next t := by
  unfold fbStore
  split
  · exact ⟨fun h => ⟨‹_›, h⟩, fun h => h.2⟩
  · exact ⟨fun h => by simp at h, fun h => absurd h.1 ‹_›⟩

theorem fbStore_of_range {st : List Host.Cell} {k : State → Result} (h : ∀ c ∈ st, c.1 < s.par.fbBytes) :
    fbStore st s k = k (s.withFb (Memory.writeAll s.fb st)) := if_pos h

theorem fbLoad_next_iff {is : List Nat} {k : Result} :
    fbLoad is s k = .next t ↔ (∀ i ∈ is, i < s.par.fbBytes) ∧ k = .next t := by
  unfold fbLoad
  split <;> simp_all

theorem fbLoad_of_range {is : List Nat} {k : Result} (h : ∀ i ∈ is, i < s.par.fbBytes) : fbLoad is s k = k := if_pos h

theorem onCondition_next_iff {cond : Prop} [Decidable cond] {k : Result} :
    onCondition cond k = .next t ↔ cond ∧ k = .next t := by
  unfold onCondition
  split <;> simp_all

theorem onCondition_of {cond : Prop} [Decidable cond] {k : Result} (h : cond) : onCondition cond k = k := if_pos h

theorem withIndex_next_iff {i : Byte} {k : Result} :
    withIndex i s k = .next t ↔
      (i.toNat < s.cfgCount.toNat ∧ k = .next t) ∨ (s.cfgCount.toNat ≤ i.toNat ∧ t = s.emit (.drop .indexRange)) := by
  unfold withIndex raiseDrop
  split
  · constructor
    · exact fun h => .inl ⟨‹_›, h⟩
    · rintro (h | h)
      · exact h.2
      · omega
  · constructor
    · intro h
      simp only [Host.Outcome.next.injEq] at h
      exact .inr ⟨by omega, h.symm⟩
    · rintro (h | h)
      · omega
      · rw [h.2]

theorem withIndex_of_lt {i : Byte} {k : Result} (h : i.toNat < s.cfgCount.toNat) : withIndex i s k = k := if_pos h

theorem withIndex_of_ge {i : Byte} {k : Result} (h : s.cfgCount.toNat ≤ i.toNat) :
    withIndex i s k = .next (s.emit (.drop .indexRange)) := if_neg (by omega)

theorem executed_next_iff : executed s = .next t ↔ t = s.setPointer 0 0 := by
  simp [executed, eq_comm]

theorem raiseDrop_next_iff {r : Drop} : raiseDrop r s = .next t ↔ t = s.emit (.drop r) := by
  simp [raiseDrop, eq_comm]

theorem returnByte_next_iff {v : Byte} : returnByte v s = .next t ↔ t = s.emit (.readData v) := by
  simp [returnByte, eq_comm]

/-- A read at the pointer answers the byte there and moves the pointer; nothing else of the block changes (R88). -/
theorem readLedAt_next_iff :
    readLedAt s = .next t ↔
      fbIndex s.bpp s.curAddr s.cursor < s.par.fbBytes ∧
        t = (s.setPointer (advance s.cfgCount s.bpp s.curAddr s.cursor).1
              (advance s.cfgCount s.bpp s.curAddr s.cursor).2).emit
            (.readData (Memory.read s.fb (fbIndex s.bpp s.curAddr s.cursor))) := by
  simp [readLedAt, fbLoad_next_iff, returnByte_next_iff]

/-- A read of a response sequence answers the byte at the cursor and moves the cursor (R89). -/
theorem readBlAt_next_iff :
    readBlAt s = .next t ↔
      ∃ v, (blResp s.par (s.classOf s.curAddr))[s.cursor.toNat]? = some v ∧
        t = (s.setPointer s.curAddr
              (BitVec.ofNat 8 ((s.cursor.toNat + 1) % (blResp s.par (s.classOf s.curAddr)).length))).emit (.readData v) := by
  simp only [readBlAt]
  split
  · rename_i v hv
    simp [returnByte_next_iff, hv]
  · rename_i hv
    simp [hv]

end Sys2Proof.Machine
end

