-- ==== Sys2Proof/Laws/Control.lean ====
section
/-! SUPPORT. What each step of CTRL can do, said once: the steps inside a service by cases, and the two starts that read the frame
buffer. The other starts are equations by rfl. -/

namespace Sys2Proof.Machine

variable {s t : State}

/-- The condition of `READ_LED` is R37's. -/
theorem State.inPixel_iff (s : State) : s.ctx.inPixel = true ↔ s.fbValid s.curAddr s.cursor := by
  simp only [Ctx.inPixel, Bool.and_eq_true, decide_eq_true_eq]
  exact ⟨fun h => ⟨(regClass_led_iff.1 h.1).1, (regClass_led_iff.1 h.1).2, h.2⟩,
    fun h => ⟨regClass_led_iff.2 ⟨h.1, h.2.1⟩, h.2.2⟩⟩

/-- The condition of `READ_BL`. -/
theorem State.inResp_iff (s : State) :
    s.ctx.inResp = true ↔ s.cursor.toNat < (blResp s.par (s.classOf s.curAddr)).length := by
  simp only [Ctx.inResp, decide_eq_true_eq]
  exact Iff.rfl

/-! ### Starts -/

theorem startRender_next_iff :
    startRender s = .next t ↔
      (∀ i ∈ List.range s.logicalBytes, i < s.par.fbBytes) ∧
        t = (s.emit (.commit s.logicalFrame s.cfgPtype)).setCtrl .renderBusy := by
  rw [startRender, fbLoad_next_iff, Host.Outcome.next.injEq, eq_comm (b := t)]

theorem startCopy_next_iff :
    startCopy s = .next t ↔
      (∀ i ∈ pixelIndices s.fmt s.copyIdx.toNat, i < s.par.fbBytes) ∧
        t = { s with
              fillColor := pixelRead s.fmt s.fb s.copyIdx.toNat
              fillN := s.cfgCount
              fillI := 0 }.setCtrl .copyFill := by
  rw [startCopy, fbLoad_next_iff, Host.Outcome.next.injEq, eq_comm (b := t)]

/-! ### Steps inside a service -/

/-- A fill step writes one pixel, or ends the service; where R115 has no row it changes nothing. -/
theorem copyFillStep_cases (h : copyFillStep s = .next t) :
    (s.fillI.toNat < s.fillN.toNat ∧ (∀ c ∈ pixelStores s.fmt s.fillI.toNat s.fillColor, c.1 < s.par.fbBytes) ∧
      t = { s.withFb (Memory.writeAll s.fb (pixelStores s.fmt s.fillI.toNat s.fillColor)) with fillI := s.fillI + 1 }) ∨
    (s.fillI = s.fillN ∧ t = (s.clearFlag .copy).setCtrl .ready) ∨
    (s.fillN.toNat < s.fillI.toNat ∧ t = s) := by
  rw [copyFillStep] at h
  split at h
  · rw [fbStore_next_iff] at h
    exact .inl ⟨‹_›, h.1, by cases h.2; rfl⟩
  · split at h
    · cases h
      exact .inr (.inl ⟨‹_›, rfl⟩)
    · cases h
      rename_i hn he
      have : s.fillI.toNat ≠ s.fillN.toNat := fun e => he (BitVec.eq_of_toNat_eq e)
      exact .inr (.inr ⟨by omega, rfl⟩)

/-- The byte steps are the ten of R126. -/
theorem persistWriteAt_eq_none {p : Params} {img : NvRecord} {k : BitVec 4} :
    persistWriteAt p img k = none ↔ 10 ≤ k.toNat := by
  have := k.isLt
  simp only [persistWriteAt]
  generalize k.toNat = n at *
  constructor
  · intro h
    by_contra hlt
    interval_cases n <;> simp_all
  · intro h
    interval_cases n <;> rfl

/-- A persist step writes one byte, or ends the service; where R115 has no row it changes nothing. -/
theorem persistStep_cases (h : persistStep s = .next t) :
    (∃ f v, persistWriteAt s.par s.nvImg s.nvK = some (f, v) ∧ t = { s.nvWrite f v with nvK := s.nvK + 1 }) ∨
    (s.nvK = 10 ∧ t = (s.clearFlag .persist).enterHalt) ∨
    (10 < s.nvK.toNat ∧ t = s) := by
  rw [persistStep] at h
  split at h
  · rename_i f v hv
    cases h
    exact .inl ⟨f, v, hv, rfl⟩
  · rename_i hv
    split at h
    · cases h
      exact .inr (.inl ⟨‹_›, rfl⟩)
    · cases h
      rename_i hne
      have hne' : s.nvK.toNat ≠ 10 := fun e => hne (BitVec.eq_of_toNat_eq e)
      have := persistWriteAt_eq_none.1 hv
      exact .inr (.inr ⟨by omega, rfl⟩)

end Sys2Proof.Machine
end

