-- ==== Sys2Proof/Laws/PerInstr.lean ====
section
/-! SUPPORT. Statements made instruction by instruction: the bus event a well-formed operation is encoded as has the format its row
names (R60, R61). -/

namespace Sys2Proof.Laws.EncodedFormat

/-- The encoded event of a well-formed operation has its row's format. -/
def Statement (i : Instr) : Prop := ∀ c : Ctx, i.wf c = true → (encode c.par i).format = i.format

theorem txnEmpty : Statement .txnEmpty := fun _ _ => rfl

theorem addrSetCmd : Statement .addrSetCmd := fun _ _ => rfl

theorem addrSetLed (a : Byte) : Statement (.addrSetLed a) := fun _ _ => rfl

theorem addrSetClamp (a : Byte) : Statement (.addrSetClamp a) := fun _ _ => rfl

theorem addrSetBlIdent : Statement .addrSetBlIdent := fun _ _ => rfl

theorem addrSetBlReset : Statement .addrSetBlReset := fun _ _ => rfl

theorem addrSetBlJump : Statement .addrSetBlJump := fun _ _ => rfl

theorem regWrite (a : Byte) (data : List Byte) : Statement (.regWrite a data) := by
  intro c h
  simp only [Instr.wf, Bool.and_eq_true, decide_eq_true_eq] at h
  have h0 : a ≠ 0 := by
    rintro rfl
    have := (regClass_led_iff.1 h.1.1).1
    simp at this
  cases data with
  | nil => simp at h
  | cons d ds => exact if_neg h0

theorem regWriteDrop (a : Byte) (data : List Byte) : Statement (.regWriteDrop a data) := by
  intro c h
  simp only [Instr.wf, Bool.and_eq_true, decide_eq_true_eq] at h
  have h0 : a ≠ 0 := h.1.1.1
  cases data with
  | nil => simp at h
  | cons d ds => exact if_neg h0

theorem cmdWrite (k : Byte) (args : List Byte) : Statement (.cmdWrite k args) := fun _ _ => rfl

theorem readCmd : Statement .readCmd := fun _ _ => rfl

theorem readLed : Statement .readLed := fun _ _ => rfl

theorem readBl : Statement .readBl := fun _ _ => rfl

theorem readFix : Statement .readFix := fun _ _ => rfl

theorem cmdShow : Statement .cmdShow := fun _ _ => rfl

theorem cmdClear : Statement .cmdClear := fun _ _ => rfl

theorem cmdClearShow : Statement .cmdClearShow := fun _ _ => rfl

theorem cmdCopyAll (a : Byte) : Statement (.cmdCopyAll a) := fun _ _ => rfl

theorem cmdSetLedCount (a : Byte) : Statement (.cmdSetLedCount a) := fun _ _ => rfl

theorem cmdSetPixelType (hi lo : Byte) : Statement (.cmdSetPixelType hi lo) := fun _ _ => rfl

theorem cmdSetBusAddr (a : Byte) : Statement (.cmdSetBusAddr a) := fun _ _ => rfl

theorem cmdSetDefaultFromIndex (a : Byte) : Statement (.cmdSetDefaultFromIndex a) := fun _ _ => rfl

theorem cmdSetLedColor (i r g b w : Byte) : Statement (.cmdSetLedColor i r g b w) := fun _ _ => rfl

theorem cmdSetAllColor (r g b w : Byte) : Statement (.cmdSetAllColor r g b w) := fun _ _ => rfl

theorem cmdSetDefaultColor (r g b w : Byte) : Statement (.cmdSetDefaultColor r g b w) := fun _ _ => rfl

theorem cmdPower (a : Byte) : Statement (.cmdPower a) := fun _ _ => rfl

theorem cmdRainbow : Statement .cmdRainbow := fun _ _ => rfl

theorem cmdDeviceReset : Statement .cmdDeviceReset := fun _ _ => rfl

end Sys2Proof.Laws.EncodedFormat
end

