-- ==== Sys2Proof/Laws/Step.lean ====
section
/-! SUPPORT. What the reset step leaves, and how a step and a run unfold. -/

namespace Sys2Proof.Machine

/-! ### The configuration load and the reset step -/

theorem State.loadConfig_of_magic {s : State} (h : s.nv.magic = s.par.cfgMagic) :
    s.loadConfig =
      { s with
        cfgBusAddr := s.nv.busAddr
        cfgPtype := s.nv.ptypeHi ++ s.nv.ptypeLo
        cfgCount := clampCount s.par s.nv.count
        cfgDefColor := ⟨s.nv.r, s.nv.g, s.nv.b, s.nv.w⟩ } := if_pos h

theorem State.loadConfig_of_not_magic {s : State} (h : s.nv.magic ≠ s.par.cfgMagic) :
    s.loadConfig =
      { s with
        cfgBusAddr := s.par.defBusAddr
        cfgPtype := s.par.defPixelType
        cfgCount := s.par.defLedCount
        cfgDefColor := s.par.defColor } := if_neg h

theorem State.par_loadConfig (s : State) : s.loadConfig.par = s.par := by unfold State.loadConfig; split <;> rfl
theorem State.inputs_loadConfig (s : State) : s.loadConfig.inputs = s.inputs := by unfold State.loadConfig; split <;> rfl
theorem State.trace_loadConfig (s : State) : s.loadConfig.trace = s.trace := by unfold State.loadConfig; split <;> rfl
theorem State.draws_loadConfig (s : State) : s.loadConfig.draws = s.draws := by unfold State.loadConfig; split <;> rfl
theorem State.nv_loadConfig (s : State) : s.loadConfig.nv = s.nv := by unfold State.loadConfig; split <;> rfl

/-- The loaded count is one the buffer holds (R157). -/
theorem State.cfgCount_loadConfig_le {s : State} (hp : s.par.wf = true) : s.loadConfig.cfgCount.toNat ≤ s.par.maxLeds := by
  have hb := Params.wf_bounds hp
  unfold State.loadConfig
  split
  · exact (clampCount_bounds hb.1.1 hb.1.2 _).2
  · exact hb.2.2.2.1.2

/-- The reset step of a block whose parameters meet R5 always completes (R153). -/
theorem resetStep_of_wf {s : State} (hp : s.par.wf = true) :
    let t := ({ s with trace := s.trace ++ Event.reset :: s.nvReads }.loadConfig).clearVolatile
    resetStep s = .next (t.withFb (Memory.writeAll [] (fillStores t.fmt t.cfgCount.toNat t.cfgDefColor))) := by
  rw [resetStep, fbStore_of_range]
  · rfl
  · apply fillStores_range
    have := State.cfgCount_loadConfig_le (s := { s with trace := s.trace ++ Event.reset :: s.nvReads }) hp
    show _ ≤ (State.loadConfig _).par.maxLeds
    rw [State.par_loadConfig]
    exact this

/-! ### Steps and runs -/

/-- With a schedule, a step takes its first entry. -/
theorem step_cons {s : State} {x : Input} {rest : List Input} (hp : s.par.wf = true) (hj : s.ctrl ≠ .jumped)
    (hi : s.inputs = x :: rest) : step s = takeInput x { s with inputs := rest } := by
  unfold step
  rw [if_neg hj, if_pos hp, hi]

/-- With no schedule left, the block moves by itself. -/
theorem step_nil {s : State} (hp : s.par.wf = true) (hj : s.ctrl ≠ .jumped) (hi : s.inputs = []) :
    step s = quietStep s := by
  unfold step
  rw [if_neg hj, if_pos hp, hi]

/-- Where the next step is the reset step, `step` is it, on the rest of the schedule. -/
theorem step_of_resetMoves {s : State} (hp : s.par.wf = true) (h : s.resetMoves) :
    step s = resetStep { s with inputs := s.inputs.tail } := by
  rcases h with ⟨hj, rest, hi⟩ | ⟨hc, hi⟩
  · rw [step_cons hp hj hi, hi]
    rfl
  · rw [step_nil hp (by simp [hc]) hi, hi]
    simp only [quietStep, hc, List.tail_nil]
    exact congrArg resetStep (by rw [← hi])

/-- Where CTRL moves next inside a service, `step` continues the service, on the rest of the schedule. -/
theorem step_of_ctrlMoves {s : State} (hp : s.par.wf = true) (h : s.ctrlMoves) (hr : s.ctrl ≠ .ready) (hj : s.ctrl ≠ .jumped) :
    step s = ctrlContinue { s with inputs := s.inputs.tail } := by
  rcases h with ⟨f, rest, hi⟩ | ⟨hi, hh⟩
  · rw [step_cons hp hj hi, hi]
    show ctrlStep f _ = _
    rw [ctrlStep]
    split <;> first | rfl | exact absurd ‹_› hr
  · rw [step_nil hp hj hi, quietStep]
    have e : ({ s with inputs := s.inputs.tail } : State) = s := by rw [hi, List.tail_nil, ← hi]
    rw [e]
    split <;> first | rfl | exact absurd ‹_› hr | exact absurd ‹_› hh

theorem run_step {n : Nat} {s t : State} (h : step s = .next t) : run (n + 1) s = run n t := by rw [run, h]

theorem run_append (m n : Nat) {s t : State} (h : run m s = .next t) : run (m + n) s = run n t := by
  induction m generalizing s with
  | zero =>
    rw [run] at h
    cases h
    rw [Nat.zero_add]
  | succ m ih =>
    rw [run] at h
    rw [show m + 1 + n = (m + n) + 1 by omega, run]
    split at h <;> simp_all

end Sys2Proof.Machine
end

