-- ==== Sys2Proof/Tests/Slice0.lean ====
section
/-! SUPPORT. Tests. Expected results come from spec/95_test_vectors.md (the vector is named in each comment) or from the rule cited;
then one witness for every statement with hypotheses. -/

namespace Sys2Proof.Tests

open Sys2Proof.Machine

/-! ### The example instantiation EX and the start state S0 (95_test_vectors.md §1) -/

def exParams : Params := { Params.specDefault with maxLeds := 8 }

def s0 : State :=
  { State.reset with
    par := exParams
    cfgCount := 4
    dfr := Dfr.none
    nv := ⟨0x5A, 0x10, 0x00, 0xD2, 0x04, 0, 0, 0, 0⟩ }

/-- S0 with flags, a control state and a schedule. -/
def st (d : Dfr) (c : Ctrl) (x : List Input) : State := { s0 with dfr := d, ctrl := c, inputs := x }

/-- S0 with a pointer. -/
def at_ (a c : Byte) : State := { s0 with curAddr := a, cursor := c }

/-- One step on a write transaction. -/
def wr (T : List Byte) (s : State) : Result := step { s with inputs := [.bus (.write T)] }

/-- One step on a read byte request. -/
def rd (s : State) : Result := step { s with inputs := [.bus .read] }

/-- A field of the next state, if there is one. -/
def get {α : Type} (f : State → α) : Result → Option α
  | .next s => some (f s)
  | .fault _ => none
  | .refused _ => none

/-- The last event observed. -/
def lastEvent (s : State) : Option Event := s.trace.getLast?

/-! ### Constraints on the parameters (R5): one ill-formed value for each check -/

theorem test_params_default : Params.specDefault.wf = true ∧ exParams.wf = true := by decide
theorem test_params_maxLeds_zero : { exParams with maxLeds := 0 }.wf = false := by decide
theorem test_params_maxLeds_253 : { exParams with maxLeds := 253 }.wf = false := by decide
theorem test_params_ident_low : { exParams with blAddrIdent := 8 }.wf = false := by decide
theorem test_params_reset_low : { exParams with blAddrReset := 8 }.wf = false := by decide
theorem test_params_jump_low : { exParams with blAddrJump := 0 }.wf = false := by decide
theorem test_params_ident_reset : { exParams with blAddrIdent := 0xF1 }.wf = false := by decide
theorem test_params_ident_jump : { exParams with blAddrIdent := 0xF2 }.wf = false := by decide
theorem test_params_reset_jump : { exParams with blAddrReset := 0xF2 }.wf = false := by decide
theorem test_params_resp_ident : { exParams with blRespIdent := [] }.wf = false := by decide
theorem test_params_resp_reset : { exParams with blRespReset := [] }.wf = false := by decide
theorem test_params_resp_jump : { exParams with blRespJump := [] }.wf = false := by decide
theorem test_params_resp_long : respOk (List.replicate 257 0) = false :=
  Bool.and_eq_false_iff.2 (.inr (by rw [List.length_replicate]; rfl))
theorem test_params_codes : { exParams with codes := { CmdCodes.specDefault with cClear := 1 } }.wf = false := by decide
theorem test_params_count_zero : { exParams with defLedCount := 0 }.wf = false := by decide
theorem test_params_count_high : { exParams with defLedCount := 9 }.wf = false := by decide
theorem test_params_txn_len : { exParams with maxTxnLen := 6 }.wf = false := by decide

/-! ### Well-formedness of operations: one ill-formed term for each check -/

theorem test_wf_addrSetLed : (Instr.addrSetLed 5).wf s0.ctx = false := by decide
theorem test_wf_addrSetClamp : (Instr.addrSetClamp 4).wf s0.ctx = false := by decide
theorem test_wf_regWrite_class : (Instr.regWrite 5 [1]).wf s0.ctx = false := by decide
theorem test_wf_regWrite_empty : (Instr.regWrite 4 []).wf s0.ctx = false := by decide
theorem test_wf_regWrite_long : (Instr.regWrite 4 (List.replicate 32 1)).wf s0.ctx = false := by decide
theorem test_wf_regWriteDrop_zero : (Instr.regWriteDrop 0 [1]).wf s0.ctx = false := by decide
theorem test_wf_regWriteDrop_class : (Instr.regWriteDrop 4 [1]).wf s0.ctx = false := by decide
theorem test_wf_regWriteDrop_empty : (Instr.regWriteDrop 5 []).wf s0.ctx = false := by decide
theorem test_wf_regWriteDrop_long : (Instr.regWriteDrop 5 (List.replicate 32 1)).wf s0.ctx = false := by decide
theorem test_wf_cmdWrite_good : (Instr.cmdWrite 0x04 [3]).wf s0.ctx = false := by decide
theorem test_wf_cmdWrite_long : (Instr.cmdWrite 0x0F (List.replicate 31 1)).wf s0.ctx = false := by decide
theorem test_wf_readCmd : Instr.readCmd.wf (at_ 1 0).ctx = false := by decide
theorem test_wf_readLed_class : Instr.readLed.wf (at_ 5 0).ctx = false := by decide
theorem test_wf_readLed_cursor : Instr.readLed.wf (at_ 4 4).ctx = false := by decide
theorem test_wf_readBl : Instr.readBl.wf (at_ 0xF0 2).ctx = false := by decide
theorem test_wf_readFix_cmd : Instr.readFix.wf (at_ 0 0).ctx = false := by decide
theorem test_wf_readFix_led : Instr.readFix.wf (at_ 4 3).ctx = false := by decide
theorem test_wf_readFix_bl : Instr.readFix.wf (at_ 0xF0 1).ctx = false := by decide

/-! ### Decoding: words written out from the encodings of R60 and R65, V5 and the vectors VB, VC -/

theorem test_decode_empty : decode s0.ctx (.write []) = .ok .txnEmpty := rfl
theorem test_decode_addr_cmd : decode s0.ctx (.write [0x00]) = .ok .addrSetCmd := rfl
theorem test_decode_addr_led : decode s0.ctx (.write [0x04]) = .ok (.addrSetLed 4) := rfl
theorem test_decode_addr_clamp : decode s0.ctx (.write [0x05]) = .ok (.addrSetClamp 5) := rfl
theorem test_decode_addr_bl :
    decode s0.ctx (.write [0xF0]) = .ok .addrSetBlIdent ∧ decode s0.ctx (.write [0xF1]) = .ok .addrSetBlReset ∧
      decode s0.ctx (.write [0xF2]) = .ok .addrSetBlJump := ⟨rfl, rfl, rfl⟩
theorem test_decode_regWrite : decode s0.ctx (.write [0x01, 0x00]) = .ok (.regWrite 1 [0]) := rfl
theorem test_decode_regWriteDrop : decode s0.ctx (.write [0xF0, 0x00]) = .ok (.regWriteDrop 0xF0 [0]) := rfl
theorem test_decode_cmd_unknown : decode s0.ctx (.write [0x00, 0x00]) = .ok (.cmdWrite 0 []) := rfl
theorem test_decode_cmd_short : decode s0.ctx (.write [0x00, 0x09, 0x07]) = .ok (.cmdWrite 9 [7]) := rfl
theorem test_decode_cmd_surplus : decode s0.ctx (.write [0x00, 0x05, 0x03, 0x09]) = .ok (.cmdSetLedCount 3) := rfl
theorem test_decode_frame_commands :
    decode s0.ctx (.write [0x00, 0x01]) = .ok .cmdShow ∧ decode s0.ctx (.write [0x00, 0x02]) = .ok .cmdClear ∧
      decode s0.ctx (.write [0x00, 0x03]) = .ok .cmdClearShow ∧ decode s0.ctx (.write [0x00, 0x04, 7]) = .ok (.cmdCopyAll 7) :=
  ⟨rfl, rfl, rfl, rfl⟩
theorem test_decode_config_commands :
    decode s0.ctx (.write [0x00, 0x06, 0x12, 0x34]) = .ok (.cmdSetPixelType 0x12 0x34) ∧
      decode s0.ctx (.write [0x00, 0x07, 0x80]) = .ok (.cmdSetBusAddr 0x80) ∧
      decode s0.ctx (.write [0x00, 0x08, 0x02]) = .ok (.cmdSetDefaultFromIndex 2) ∧
      decode s0.ctx (.write [0x00, 0x0B, 9, 8, 7, 6]) = .ok (.cmdSetDefaultColor 9 8 7 6) := ⟨rfl, rfl, rfl, rfl⟩
theorem test_decode_colour_commands :
    decode s0.ctx (.write [0x00, 0x09, 2, 0xFF, 0, 0, 0x80]) = .ok (.cmdSetLedColor 2 0xFF 0 0 0x80) ∧
      decode s0.ctx (.write [0x00, 0x0A, 1, 2, 3, 4]) = .ok (.cmdSetAllColor 1 2 3 4) := ⟨rfl, rfl⟩
theorem test_decode_device_commands :
    decode s0.ctx (.write [0x00, 0x0C, 0x80]) = .ok (.cmdPower 0x80) ∧ decode s0.ctx (.write [0x00, 0x0D]) = .ok .cmdRainbow ∧
      decode s0.ctx (.write [0x00, 0x0E]) = .ok .cmdDeviceReset := ⟨rfl, rfl, rfl⟩
theorem test_decode_reads :
    decode (at_ 0 0).ctx .read = .ok .readCmd ∧ decode (at_ 4 3).ctx .read = .ok .readLed ∧
      decode (at_ 0xF0 1).ctx .read = .ok .readBl ∧ decode (at_ 4 4).ctx .read = .ok .readFix := ⟨rfl, rfl, rfl, rfl⟩
/-- The pointer's byte is inside the pixel with `BPP = 4` and outside it with `BPP = 3` (R17, R34). -/
theorem test_decode_read_bpp3 : decode { (at_ 4 3).ctx with ptype := 0x0052 } .read = .ok .readFix := rfl
theorem test_decode_too_long : decode s0.ctx (.write (List.replicate 33 1)) = .error .txnTooLong := rfl

/-- Words as spec/opcode_table.json numbers them: `0x0001` is the bytes 00 01. -/
theorem test_table_words :
    decodeTableWord 8 0x00 = some .addrSetCmd ∧ decodeTableWord 16 0x0001 = some .cmdShow ∧
      decodeTableWord 16 0x0004 = some (.cmdCopyAll 0) ∧ decodeTableWord 16 0x0009 = some (.cmdSetLedColor 0 0 0 0 0) ∧
      decodeTableWord 16 0x000E = some .cmdDeviceReset ∧ decodeTableWord 0 0 = some .txnEmpty := ⟨rfl, rfl, rfl, rfl, rfl, rfl⟩
/-- The context of `decodeTableWord` is that of the state right after reset. -/
theorem test_table_context : Ctx.ofDefaults Params.specDefault = State.reset.ctx := rfl
/-- `withFetchWord` makes the next step run the word's operation. -/
theorem test_fetch_word : get (·.dfr.reset) (step (State.reset.withFetchWord 16 0x000E)) = some true := by rfl

/-! ### Index calculator, advance, pixel format and pixel accessors: V1 to V4 -/

theorem test_fbIndex : fbIndex 4 4 3 = 15 ∧ fbIndex 3 2 0 = 3 ∧ fbIndex 3 4 2 = 11 ∧ fbIndex 4 252 3 = 1007 := by decide
theorem test_fbValid : s0.fbValid 4 3 ∧ ¬ s0.fbValid 5 0 ∧ ¬ s0.fbValid 0 0 ∧ ¬ s0.fbValid 1 4 := by decide
theorem test_advance :
    advance 4 4 1 0 = (1, 1) ∧ advance 4 4 1 3 = (2, 0) ∧ advance 4 4 4 3 = (1, 0) ∧ advance 4 3 1 2 = (2, 0) ∧
      advance 1 4 1 3 = (1, 0) := by decide
theorem test_pixelDecode :
    neoPixelDecode 0xFFD2 = ⟨.four, 1, 0, 2, 3⟩ ∧ neoPixelDecode 0x00C6 = ⟨.four, 0, 1, 2, 3⟩ ∧
      neoPixelDecode 0x0052 = ⟨.three, 1, 0, 2, 1⟩ ∧ neoPixelDecode 0x00FF = ⟨.three, 3, 3, 3, 3⟩ := by decide
theorem test_pixelDecode_table :
    (PixelDecode.table [(0x1234, ⟨.three, 0, 1, 2, 0⟩)] ⟨.four, 1, 0, 2, 3⟩).apply 0x1234 = ⟨.three, 0, 1, 2, 0⟩ ∧
      (PixelDecode.table [(0x1234, ⟨.three, 0, 1, 2, 0⟩)] ⟨.four, 1, 0, 2, 3⟩).apply 0x0001 = ⟨.four, 1, 0, 2, 3⟩ := by decide
theorem test_pixelWrite_grbw :
    Memory.writeAll [] (pixelStores (neoPixelDecode 0x00D2) 1 ⟨1, 2, 3, 4⟩) = [(4, 2), (5, 1), (6, 3), (7, 4)] := by decide
theorem test_pixelWrite_coinciding :
    Memory.writeAll [] (pixelStores (neoPixelDecode 0x0000) 1 ⟨1, 2, 3, 4⟩) = [(3, 3)] ∧
      pixelRead (neoPixelDecode 0x0000) [(3, 3)] 1 = ⟨3, 3, 3, 0⟩ := by decide
theorem test_pixelWrite_outside :
    pixelStores (neoPixelDecode 0x00FF) 1 ⟨1, 2, 3, 4⟩ = [] ∧ pixelRead (neoPixelDecode 0x00FF) [(3, 9)] 1 = ⟨0, 0, 0, 0⟩ := by decide
theorem test_pixelRead_bpp3 : pixelRead (neoPixelDecode 0x0052) [(3, 2), (4, 1), (5, 3), (6, 9)] 1 = ⟨1, 2, 3, 0⟩ := by decide
theorem test_dfr_bits : (⟨true, false, false, true, false, true⟩ : Dfr).bits = 0b101001 := by decide
theorem test_codes : Drop.writeRange.code = 4 ∧ Ctrl.jumped.code = 6 ∧ s0.pwrEnN = false ∧ s0.busAddrOut = 0x10 := by decide

/-! ### Register decoder: VB1 to VB24 and X3, X6 -/

theorem test_txnEmpty : get lastEvent (wr [] s0) = some (some (.drop .empty)) := by decide
theorem test_addrSetCmd : get (fun s => (s.curAddr, s.cursor)) (wr [0] (at_ 4 3)) = some (0, 0) := by decide
theorem test_addrSetLed : get (fun s => (s.curAddr, s.cursor)) (wr [4] (at_ 1 2)) = some (4, 0) := by decide
theorem test_addrSetClamp_count : get (·.curAddr) (wr [5] s0) = some 1 := by decide
theorem test_addrSetClamp_storage : get (·.curAddr) (wr [8] s0) = some 1 := by decide
theorem test_addrSetBlIdent : get (fun s => (s.curAddr, s.cursor, s.dfr)) (wr [0xF0] s0) = some (0xF0, 0, Dfr.none) := by decide
theorem test_addrSetBlReset :
    get (fun s => (s.curAddr, s.cursor, s.dfr)) (wr [0xF1] s0) = some (0xF1, 0, { Dfr.none with reset := true }) := by decide
theorem test_addrSetBlJump :
    get (fun s => (s.curAddr, s.cursor, s.dfr)) (wr [0xF2] s0) = some (0xF2, 0, { Dfr.none with boot := true }) := by decide
/-- X6: the write wraps from register 4 to register 1. -/
theorem test_regWrite_wrap :
    get (fun s => (s.fb, s.curAddr, s.cursor)) (wr [4, 1, 2, 3, 4, 5, 6] s0) =
      some ([(0, 5), (1, 6), (12, 1), (13, 2), (14, 3), (15, 4)], 1, 2) := by decide
/-- VB23: with `BPP = 3`. -/
theorem test_regWrite_bpp3 :
    get (fun s => (s.fb, s.curAddr, s.cursor)) (wr [2, 0x0A, 0x0B, 0x0C, 0x0D] { s0 with cfgPtype := 0x0052 }) =
      some ([(3, 0x0A), (4, 0x0B), (5, 0x0C), (6, 0x0D)], 3, 1) := by decide
theorem test_regWriteDrop :
    get (fun s => (s.fb, s.curAddr, lastEvent s)) (wr [5, 0xAA] (at_ 2 0)) = some ([], 2, some (.drop .writeRange)) := by decide
/-- VB17: data at a reserved address does not set its flag. -/
theorem test_regWriteDrop_reserved : get (fun s => (s.dfr, lastEvent s)) (wr [0xF1, 0xAA] s0) =
    some (Dfr.none, some (.drop .writeRange)) := by decide
theorem test_cmdWrite_unknown : get (fun s => (s.curAddr, lastEvent s)) (wr [0, 0x0F] (at_ 3 0)) =
    some (3, some (.drop .unknownCmd)) := by decide
/-- VC4: the arity check precedes the index check. -/
theorem test_cmdWrite_short : get lastEvent (wr [0, 9, 7] s0) = some (some (.drop .shortArgs)) := by decide
theorem test_readCmd : get (fun s => (s.cursor, lastEvent s)) (rd { s0 with resp := 0x77 }) = some (0, some (.readData 0x77)) := by
  decide
/-- VB13: the last byte of the last register, then register 1. -/
theorem test_readLed_wrap :
    get (fun s => (s.curAddr, s.cursor, lastEvent s)) (rd { s0 with curAddr := 4, cursor := 3, fb := [(15, 0x0F)] }) =
      some (1, 0, some (.readData 0x0F)) := by decide
theorem test_readLed_inside :
    get (fun s => (s.curAddr, s.cursor, lastEvent s)) (rd { s0 with curAddr := 3, fb := [(8, 0x40)] }) =
      some (3, 1, some (.readData 0x40)) := by decide
/-- VB8: the sequence starts again. -/
theorem test_readBl_cycle :
    get (fun s => (s.curAddr, s.cursor, lastEvent s)) (rd (at_ 0xF0 1)) = some (0xF0, 0, some (.readData 0x22)) := by decide
theorem test_readBl_one : get (fun s => (s.cursor, lastEvent s)) (rd (at_ 0xF1 0)) = some (0, some (.readData 0x33)) := by decide
/-- R90, both branches. -/
theorem test_readFix_bl :
    get (fun s => (s.curAddr, s.cursor, lastEvent s)) (rd (at_ 0xF0 9)) = some (0xF0, 1, some (.readData 0x11)) := by decide
theorem test_readFix_led :
    get (fun s => (s.curAddr, s.cursor, lastEvent s)) (rd { s0 with curAddr := 9, fb := [(0, 0xAB)] }) =
      some (1, 1, some (.readData 0xAB)) := by decide

/-! ### Commands: VC1 to VC33, X1, X7 -/

theorem test_cmdShow : get (fun s => (s.dfr, s.curAddr)) (wr [0, 1, 0x55, 0x66] (at_ 3 0)) =
    some ({ Dfr.none with render := true }, 0) := by decide
/-- VC32: the clear reaches the logical bytes only. -/
theorem test_cmdClear : get (fun s => (s.fb, s.dfr)) (wr [0, 2] { s0 with fb := [(0, 1), (15, 2), (16, 0x77)] }) =
    some ([(16, 0x77)], Dfr.none) := by decide
theorem test_cmdClearShow : get (fun s => (s.fb, s.dfr)) (wr [0, 3] { s0 with fb := [(0, 1), (3, 4)] }) =
    some ([], { Dfr.none with render := true }) := by decide
theorem test_cmdCopyAll : get (fun s => (s.copyIdx, s.dfr)) (wr [0, 4, 3] s0) = some (3, { Dfr.none with copy := true }) := by decide
theorem test_cmdCopyAll_range : get (fun s => (s.dfr, lastEvent s)) (wr [0, 4, 4] s0) =
    some (Dfr.none, some (.drop .indexRange)) := by decide
theorem test_cmdSetLedCount_zero : get (fun s => (s.cfgCount, s.dfr)) (wr [0, 5, 0] s0) =
    some (1, { Dfr.none with persist := true }) := by decide
theorem test_cmdSetLedCount_clamp : get (·.cfgCount) (wr [0, 5, 0xC8] s0) = some 8 := by decide
theorem test_cmdSetPixelType : get (fun s => (s.cfgPtype, s.dfr, s.fmt)) (wr [0, 6, 0x12, 0x34] s0) =
    some (0x1234, { Dfr.none with persist := true }, ⟨.four, 3, 1, 0, 0⟩) := by decide
theorem test_cmdSetBusAddr : get (fun s => (s.cfgBusAddr, s.dfr)) (wr [0, 7, 0x80] s0) =
    some (0x80, { Dfr.none with persist := true }) := by decide
/-- VC20: the bytes at register 1 are G, R, B, W. -/
theorem test_cmdSetDefaultFromIndex :
    get (·.cfgDefColor) (wr [0, 8, 0] { s0 with fb := [(0, 0x10), (1, 0x20), (2, 0x30), (3, 0x40)] }) =
      some ⟨0x20, 0x10, 0x30, 0x40⟩ := by decide
theorem test_cmdSetDefaultFromIndex_range : get lastEvent (wr [0, 8, 0xFF] s0) = some (some (.drop .indexRange)) := by decide
/-- X1. -/
theorem test_cmdSetLedColor : get (fun s => (s.fb, s.dfr, s.curAddr)) (wr [0, 9, 2, 0xFF, 0, 0, 0x80] s0) =
    some ([(9, 0xFF), (11, 0x80)], Dfr.none, 0) := by decide
theorem test_cmdSetLedColor_range : get (fun s => (s.fb, lastEvent s)) (wr [0, 9, 4, 1, 2, 3, 4] s0) =
    some ([], some (.drop .indexRange)) := by decide
/-- VC24 at count 2. -/
theorem test_cmdSetAllColor : get (·.fb) (wr [0, 0x0A, 1, 2, 3, 4] { s0 with cfgCount := 2, fb := [(8, 7)] }) =
    some [(0, 2), (1, 1), (2, 3), (3, 4), (4, 2), (5, 1), (6, 3), (7, 4), (8, 7)] := by decide
theorem test_cmdSetDefaultColor : get (fun s => (s.cfgDefColor, s.dfr, s.fb)) (wr [0, 0x0B, 9, 8, 7, 6] s0) =
    some (⟨9, 8, 7, 6⟩, { Dfr.none with persist := true }, []) := by decide
theorem test_cmdPower_on : get (fun s => (s.pwrOn, s.dfr)) (wr [0, 0x0C, 0x80] { s0 with pwrOn := false }) =
    some (true, { Dfr.none with settle := true }) := by decide
/-- VC29: "off" cancels nothing. -/
theorem test_cmdPower_off : get (fun s => (s.pwrOn, s.pwrEnN, s.dfr)) (wr [0, 0x0C, 0] (st { Dfr.none with settle := true } .ready [])) =
    some (false, true, { Dfr.none with settle := true }) := by decide
theorem test_cmdRainbow : get (fun s => (s.draws, s.dfr, s.curAddr)) (wr [0, 0x0D] s0) =
    some (16, { Dfr.none with render := true }, 0) := by decide
theorem test_cmdDeviceReset : get (fun s => (s.resp, s.draws, s.dfr)) (wr [0, 0x0E] s0) =
    some (Config.freeByte 0, 1, { Dfr.none with reset := true }) := rfl

/-! ### CTRL, reset and the schedule: VD1 to VD12, VE1 to VE8 -/

/-- One step of a turn of CTRL. -/
def ct (f : Flag) (s : State) : Result := step { s with inputs := [.ctrl f] }

/-- VD1. -/
theorem test_render_start :
    get (fun s => (s.ctrl, s.dfr.render, s.trace)) (ct .render { s0 with cfgCount := 1, fb := [(1, 2)], dfr := { Dfr.none with render := true } }) =
      some (.renderBusy, true, [.wdtKick, .commit [0, 2, 0, 0] 0x00D2]) := by decide
theorem test_render_done : get (fun s => (s.ctrl, s.dfr)) (ct .boot (st { Dfr.none with render := true } .renderBusy [])) =
    some (.ready, Dfr.none) := by decide
/-- VD3, step 1. -/
theorem test_copy_start :
    get (fun s => (s.ctrl, s.fillColor, s.fillN, s.fillI))
        (ct .copy { s0 with copyIdx := 1, fb := [(4, 2), (5, 1), (6, 3), (7, 4)], dfr := { Dfr.none with copy := true } }) =
      some (.copyFill, ⟨1, 2, 3, 4⟩, 4, 0) := by decide
/-- VD5: the latched count is filled, whatever `CFG_COUNT` is now. -/
theorem test_copy_fill :
    get (fun s => (s.fillI, s.fb))
        (ct .copy { s0 with ctrl := .copyFill, cfgCount := 2, fillI := 3, fillN := 4, fillColor := ⟨1, 2, 3, 4⟩ }) =
      some (4, [(12, 2), (13, 1), (14, 3), (15, 4)]) := by decide
theorem test_copy_done :
    get (fun s => (s.ctrl, s.dfr)) (ct .copy { s0 with ctrl := .copyFill, fillI := 4, fillN := 4, dfr := { Dfr.none with copy := true } }) =
      some (.ready, Dfr.none) := by decide
/-- VD6. -/
theorem test_settle_done : get (fun s => (s.ctrl, s.dfr)) (ct .settle (st { Dfr.none with settle := true } .settleWait [])) =
    some (.ready, { Dfr.none with render := true }) := by decide
/-- VD7, step 1. -/
theorem test_persist_start :
    get (fun s => (s.ctrl, s.nvK, s.nvImg))
        (ct .persist { s0 with cfgDefColor := ⟨1, 2, 3, 4⟩, dfr := { Dfr.none with persist := true } }) =
      some (.persistWrite, 0, ⟨0x5A, 0x10, 0x00, 0xD2, 4, 1, 2, 3, 4⟩) := by decide
/-- VD7: the first write invalidates the record, and the last one validates it. -/
theorem test_persist_first :
    get (fun s => (s.nvK, s.nv.magic, lastEvent s)) (ct .persist { s0 with ctrl := .persistWrite, nvImg := s0.nv }) =
      some (1, 0xA5, some (.nvWrite 0 0xA5)) := by decide
theorem test_persist_last :
    get (fun s => (s.nvK, s.nv.magic, lastEvent s)) (ct .persist { s0 with ctrl := .persistWrite, nvK := 9, nvImg := s0.nv }) =
      some (10, 0x5A, some (.nvWrite 0 0x5A)) := by decide
theorem test_persist_done :
    get (fun s => (s.ctrl, s.wdtMode, s.dfr, lastEvent s))
        (ct .persist { s0 with ctrl := .persistWrite, nvK := 10, dfr := { Dfr.none with persist := true } }) =
      some (.halt, .shortArmed, Dfr.none, some .wdtArmShort) := by decide
/-- VD9, step 1, and VD10, step 1. -/
theorem test_reset_service : get (fun s => (s.ctrl, s.dfr, s.trace)) (ct .reset (st { Dfr.none with reset := true } .ready [])) =
    some (.halt, Dfr.none, [.wdtKick, .wdtArmShort]) := by decide
theorem test_boot_service : get (fun s => (s.ctrl, s.dfr, s.trace)) (ct .boot (st { Dfr.none with boot := true } .ready [])) =
    some (.jumped, Dfr.none, [.wdtKick, .bootJump]) := by decide
/-- VD9: BUS still runs in `HALT`; VD10: nothing runs in `JUMPED`. -/
theorem test_bus_in_halt : get (·.fb) (wr [1, 0xFF] (st Dfr.none .halt [])) = some [(0, 0xFF)] := by decide
theorem test_bus_in_jumped : wr [1, 0xFF] (st Dfr.none .jumped []) = .refused .jumped := rfl
/-- VE2: a mismatched record. -/
theorem test_reset_defaults :
    get (fun s => (s.cfgBusAddr, s.cfgPtype, s.cfgCount, s.cfgDefColor, s.fb))
        (resetStep { s0 with nv := ⟨0x00, 0x10, 0x00, 0xD2, 4, 1, 2, 3, 4⟩, fb := [(0, 9)] }) =
      some (0x10, 0x00D2, 8, ⟨0, 0, 0, 0⟩, []) := rfl
/-- VE6 and VE8. -/
theorem test_reset_loads :
    get (fun s => (s.cfgCount, s.fb, s.dfr.render)) (resetStep { s0 with nv := ⟨0x5A, 0x10, 0x00, 0xD2, 2, 1, 2, 3, 4⟩ }) =
      some (2, [(0, 2), (1, 1), (2, 3), (3, 4), (4, 2), (5, 1), (6, 3), (7, 4)], true) := by decide
theorem test_reset_loads_bpp3 :
    get (·.fb) (resetStep { s0 with nv := ⟨0x5A, 0x10, 0x00, 0x00, 2, 1, 2, 3, 4⟩ }) = some [(0, 3), (3, 3)] := by decide
/-- VE4 and VE5. -/
theorem test_reset_clamps :
    get (·.cfgCount) (resetStep { s0 with nv := ⟨0x5A, 0x10, 0x00, 0xD2, 0, 0, 0, 0, 0⟩ }) = some 1 ∧
      get (·.cfgCount) (resetStep { s0 with nv := ⟨0x5A, 0x10, 0x00, 0xD2, 0xC8, 0, 0, 0, 0⟩ }) = some 8 := by decide
/-- With nothing scheduled the reset state renders (R159), and `HALT` is left by the watchdog reset (R131). -/
theorem test_quiet_reset : get (·.ctrl) (step State.reset) = some .renderBusy := by decide
theorem test_quiet_halt : get (fun s => (s.ctrl, s.cfgCount)) (step (st Dfr.none .halt [])) = some (.ready, 4) := by decide
theorem test_quiet_idle : step s0 = .next s0 := rfl

/-! ### Witnesses: states and operands that meet the hypotheses of each statement, each clause at a boundary value -/

/-- S0 is safe with any flags, any schedule and a pointer the invariant allows. -/
theorem safe_s0 (d : Dfr) (x : List Input) : Safe (st d .ready x) where
  params := by show exParams.wf = true; decide
  count := by show 1 ≤ 4 ∧ 4 ≤ 8; decide
  pointer := by rfl
  fbForm := by exact (by decide : Memory.wf [])
  fbRange := by intro c hc; cases hc
  copyIdx := by show 0 < 8; decide
  busy := ⟨nofun, nofun, nofun, nofun⟩
  fill := nofun
  persist := nofun
  watchdog := ⟨nofun, nofun⟩

/-- The last byte of the last register. -/
def atLast : State := at_ 4 3

theorem safe_atLast : Safe atLast where
  params := by decide
  count := by decide
  pointer := by show 3 < 4; decide
  fbForm := by decide
  fbRange := by decide
  copyIdx := by decide
  busy := by decide
  fill := by decide
  persist := fun h => by cases h
  watchdog := by decide

/-- A persist cut after `k` writes, the record as it is then. -/
def torn (k : BitVec 4) (n : NvRecord) : State :=
  { s0 with
    ctrl := .persistWrite
    nvK := k
    nvImg := ⟨0x5A, 0x10, 0x00, 0xD2, 4, 1, 2, 3, 4⟩
    nv := n
    dfr := { Dfr.none with persist := true }
    inputs := [.reset] }

theorem safe_torn (k : BitVec 4) (n : NvRecord) (h : (torn k n).persistOk) : Safe (torn k n) where
  params := by show exParams.wf = true; decide
  count := by show 1 ≤ 4 ∧ 4 ≤ 8; decide
  pointer := by rfl
  fbForm := by exact (by decide : Memory.wf [])
  fbRange := by intro c hc; cases hc
  copyIdx := by show 0 < 8; decide
  busy := ⟨nofun, nofun, nofun, fun _ => rfl⟩
  fill := nofun
  persist := fun _ => h
  watchdog := ⟨nofun, nofun⟩

/-- Inside a copy fill of four pixels, at pixel `i`, after a bus event has set the count to 2 (VD4, VD5). -/
def filling (i : Byte) (x : List Input) : State :=
  { st { Dfr.none with copy := true } .copyFill x with cfgCount := 2, fillI := i, fillN := 4, fillColor := ⟨1, 2, 3, 4⟩ }

theorem safe_filling (i : Byte) (x : List Input) (h : i.toNat ≤ 4) : Safe (filling i x) where
  params := by show exParams.wf = true; decide
  count := by show 1 ≤ 2 ∧ 2 ≤ 8; decide
  pointer := by rfl
  fbForm := by exact (by decide : Memory.wf [])
  fbRange := by intro c hc; cases hc
  copyIdx := by show 0 < 8; decide
  busy := ⟨nofun, fun _ => rfl, nofun, nofun⟩
  fill := fun _ => ⟨h, by show 1 ≤ 4; decide, by show 4 ≤ 8; decide⟩
  persist := nofun
  watchdog := ⟨nofun, nofun⟩

theorem witness_StepRunsTheDecodedOperation :
    let s := st Dfr.none .ready [.bus (.write [0, 1])]
    s.par.wf = true ∧ s.ctrl ≠ .jumped ∧ s.inputs = .bus (.write [0, 1]) :: [] ∧ decode s.ctx (.write [0, 1]) = .ok .cmdShow :=
  ⟨by decide, by decide, rfl, rfl⟩

theorem witness_WrittenOutWordsDecode :
    s0.ctx.par.codes = CmdCodes.specDefault ∧ 7 ≤ s0.ctx.par.maxTxnLen ∧ 4 ≤ s0.ctx.count.toNat := by decide

theorem witness_DecodeOfEncodeGivesTheOperation :
    s0.ctx.par.wf = true ∧ s0.ctx.count.toNat ≤ s0.ctx.par.maxLeds ∧ (Instr.addrSetLed 4).wf s0.ctx = true ∧
      (Instr.regWrite 4 (List.replicate 31 0xFF)).wf s0.ctx = true ∧ (Instr.cmdWrite 0x09 [7]).wf s0.ctx = true ∧
      (Instr.regWriteDrop 5 [0xAA]).wf s0.ctx = true ∧ (Instr.cmdSetLedColor 0xFF 0xFF 0 0 0x80).wf s0.ctx = true := by decide

theorem witness_EveryDeliverableEventDecodes :
    s0.ctx.par.wf = true ∧ ∀ T, BusEvent.write (List.replicate 32 1) = .write T → T.length ≤ s0.ctx.par.maxTxnLen :=
  ⟨by decide, fun T h => by cases h; decide⟩

theorem witness_SurplusArgumentsAreIgnored :
    s0.ctx.par.wf = true ∧ [(1 : Byte), 2, 3, 4, 5].length = Cmd.cSetLedColor.arity ∧
      2 + [(1 : Byte), 2, 3, 4, 5].length + [(9 : Byte)].length ≤ s0.ctx.par.maxTxnLen := by decide

theorem witness_RegisterClassesAreDisjoint :
    exParams.wf = true ∧ (4 : Byte).toNat ≤ exParams.maxLeds ∧ regClass exParams 4 0 = .cmd ∧ regClass exParams 4 1 = .led ∧
      regClass exParams 4 4 = .led ∧ regClass exParams 4 5 = .invalid ∧ regClass exParams 4 0xF0 = .blIdent ∧
      regClass exParams 4 0xF1 = .blReset ∧ regClass exParams 4 0xF2 = .blJump ∧ regClass exParams 4 255 = .invalid := by decide

theorem witness_SafeStatesNeverStop :
    let s := st Dfr.none .ready [.bus (.write [])]
    Safe s ∧ s.ctrl ≠ .jumped ∧ ∀ T rest, s.inputs = .bus (.write T) :: rest → T.length ≤ s.par.maxTxnLen :=
  ⟨safe_s0 _ _, by decide, fun T rest h => by cases h; decide⟩

theorem witness_RefusalsOfTheStep :
    (st Dfr.none .jumped []).ctrl = .jumped ∧
      ({ s0 with par := { exParams with maxLeds := 0 } } : State).par.wf = false ∧
      (st Dfr.none .ready [.bus (.write (List.replicate 33 0))]).par.maxTxnLen < (List.replicate 33 (0 : Byte)).length := by decide

theorem witness_OperationsOutsideTheirConditionAreRefused :
    s0.classOf 5 ≠ .led ∧ s0.classOf 4 ≠ .invalid ∧ s0.classOf 4 = .led ∧ (at_ 1 0).curAddr ≠ 0 ∧ ¬ (at_ 4 4).fbValid 4 4 ∧
      (blResp exParams (s0.classOf 0xF0)).length ≤ (at_ 0xF0 2).cursor.toNat ∧ (at_ 4 3).fbValid 4 3 ∧
      (at_ 0xF0 1).cursor.toNat < (blResp exParams (s0.classOf 0xF0)).length := by decide

theorem witness_StepKeepsSafe : Safe (st Dfr.none .ready []) ∧ step (st Dfr.none .ready []) = .next (st Dfr.none .ready []) :=
  ⟨safe_s0 _ _, rfl⟩

theorem witness_StepKeepsParametersAndObservation : step s0 = .next s0 := rfl

theorem witness_RegisterZeroSelectsTheResponse : s0.curAddr = 0 := rfl

theorem witness_AddressOnlyWriteSelectsAnLedRegister :
    (1 ≤ (1 : Byte).toNat ∧ (1 : Byte).toNat ≤ s0.cfgCount.toNat) ∧ 1 ≤ (4 : Byte).toNat ∧ (4 : Byte).toNat ≤ s0.cfgCount.toNat := by
  decide

theorem witness_AddressOnlyWriteClampsAnInvalidAddress :
    (∀ a ∈ [(5 : Byte), 8, 255], s0.cfgCount.toNat < a.toNat ∧ a ≠ s0.par.blAddrIdent ∧ a ≠ s0.par.blAddrReset ∧
      a ≠ s0.par.blAddrJump) ∧ Safe (st Dfr.none .ready []) := ⟨by decide, safe_s0 _ _⟩

theorem witness_HandshakeAddressesSetPointerAndFlag : s0.par.wf = true ∧ s0.cfgCount.toNat ≤ s0.par.maxLeds := by decide

theorem witness_RegisterWriteStoresAlongTheWalk :
    Safe (st Dfr.none .ready []) ∧ 1 ≤ (4 : Byte).toNat ∧ (4 : Byte).toNat ≤ (st Dfr.none .ready []).cfgCount.toNat ∧
      [(1 : Byte), 2, 3, 4, 5] ≠ [] := ⟨safe_s0 _ _, by decide⟩

theorem witness_RegisterWalkWrapsInsideTheWindow :
    1 ≤ (4 : Byte).toNat ∧ (4 : Byte).toNat ≤ (4 : Byte).toNat ∧ 1 ≤ (252 : Byte).toNat ∧ (1 : Byte).toNat ≤ (252 : Byte).toNat := by
  decide

/-- The pointers (1, 2), (4, 3) and (3, 3) at count 4, one for each of the three cases. -/
theorem witness_AdvanceStaysInTheWindow :
    (1 ≤ (1 : Byte).toNat ∧ (1 : Byte).toNat ≤ (4 : Byte).toNat ∧ (2 : Byte).toNat < Bpp.four.toNat ∧
      (2 : Byte).toNat + 1 < Bpp.four.toNat) ∧
    ((4 : Byte).toNat ≤ (4 : Byte).toNat ∧ (3 : Byte).toNat < Bpp.four.toNat ∧ Bpp.four.toNat ≤ (3 : Byte).toNat + 1) ∧
    1 ≤ (3 : Byte).toNat ∧ (3 : Byte).toNat ≤ (4 : Byte).toNat ∧ (3 : Byte) ≠ 4 := by decide

theorem witness_DropsOnlyRecordTheirReason :
    ((5 : Byte) ≠ 0 ∧ s0.classOf 5 ≠ .led ∧ [(0xAA : Byte)] ≠ []) ∧ s0.classOf 0xF1 ≠ .led ∧ s0.par.codes.find 0x0F = none ∧
      s0.par.codes.find 0 = none ∧ s0.par.codes.find 0x09 = some .cSetLedColor ∧ [(2 : Byte), 1, 2, 3].length < Cmd.cSetLedColor.arity ∧
      s0.cfgCount.toNat ≤ (4 : Byte).toNat := by decide

theorem witness_LedReadReturnsTheByteAndAdvances : Safe atLast ∧ atLast.fbValid atLast.curAddr atLast.cursor :=
  ⟨safe_atLast, by decide⟩

theorem witness_HandshakeReadCyclesThroughItsSequence :
    s0.par.wf = true ∧ s0.cfgCount.toNat ≤ s0.par.maxLeds ∧
      ((at_ 0xF0 1).curAddr = s0.par.blAddrIdent ∧ s0.par.blRespIdent[(at_ 0xF0 1).cursor.toNat]? = some 0x22) ∧
      ((at_ 0xF1 0).curAddr = s0.par.blAddrReset ∧ s0.par.blRespReset[(at_ 0xF1 0).cursor.toNat]? = some 0x33) ∧
      (at_ 0xF2 0).curAddr = s0.par.blAddrJump ∧ s0.par.blRespJump[(at_ 0xF2 0).cursor.toNat]? = some 0x44 := by decide

theorem witness_InconsistentReadIsRepaired :
    s0.par.wf = true ∧ s0.cfgCount.toNat ≤ s0.par.maxLeds ∧
      ((at_ 0xF0 2).curAddr = s0.par.blAddrIdent ∧ s0.par.blRespIdent.length ≤ (at_ 0xF0 2).cursor.toNat ∧
        s0.par.blRespIdent[0]? = some 0x11) ∧
      (at_ 5 0).classOf (at_ 5 0).curAddr = .invalid ∧
      1 ≤ (at_ 4 4).curAddr.toNat ∧ (at_ 4 4).curAddr.toNat ≤ (at_ 4 4).cfgCount.toNat ∧ (at_ 4 4).bpp ≤ (at_ 4 4).cursor.toNat := by
  decide

theorem witness_EveryReadRequestIsAnswered :
    let s := st Dfr.none .ready [.bus .read]
    Safe s ∧ s.ctrl ≠ .jumped ∧ s.inputs = .bus .read :: [] := ⟨safe_s0 _ _, by decide, rfl⟩

theorem witness_WrittenRegisterReadsBack :
    let s := st Dfr.none .ready (.bus (.write [4, 1, 2, 3, 4]) :: .bus (.write [4]) :: (List.replicate 4 (.bus .read) ++ []))
    Safe s ∧ s.ctrl ≠ .jumped ∧ 1 ≤ (4 : Byte).toNat ∧ (4 : Byte).toNat ≤ s.cfgCount.toNat ∧ [(1 : Byte), 2, 3, 4].length = s.bpp ∧
      s.inputs = .bus (.write [4, 1, 2, 3, 4]) :: .bus (.write [4]) :: (List.replicate s.bpp (.bus .read) ++ []) :=
  ⟨safe_s0 _ _, by decide, by decide, by decide, by decide, rfl⟩

theorem witness_SetColorReadsBackAtTheOffsets :
    let s := st Dfr.none .ready (.bus (.write [0, 9, 3, 1, 2, 3, 4]) :: .bus (.write [4]) :: (List.replicate 4 (.bus .read) ++ []))
    Safe s ∧ s.ctrl ≠ .jumped ∧ (3 : Byte).toNat < s.cfgCount.toNat ∧ offsetsPermute s.fmt ∧
      s.inputs = .bus (.write [0, s.par.codes.cSetLedColor, 3, 1, 2, 3, 4]) :: .bus (.write [3 + 1]) ::
        (List.replicate s.bpp (.bus .read) ++ []) :=
  ⟨safe_s0 _ _, by decide, by decide, by decide, rfl⟩

theorem witness_DispatcherRunsTheCommand :
    Safe (st Dfr.none .ready []) ∧ Cmd.cSetLedColor.arity ≤ [(3 : Byte), 1, 2, 3, 4, 9].length ∧
      (takesIndex .cSetLedColor = true → (argByte [3, 1, 2, 3, 4, 9] 0).toNat < (st Dfr.none .ready []).cfgCount.toNat) :=
  ⟨safe_s0 _ _, by decide, by decide⟩

theorem witness_ShortCommandsLeaveTheBlockUnchanged :
    let s := st Dfr.none .ready [.bus (.write [0, 9, 2, 0xFF, 0, 0])]
    s.par.wf = true ∧ s.ctrl ≠ .jumped ∧ [(2 : Byte), 0xFF, 0, 0].length < Cmd.cSetLedColor.arity ∧
      s.inputs = .bus (.write (0 :: s.par.codes.code .cSetLedColor :: [2, 0xFF, 0, 0])) :: [] :=
  ⟨by decide, by decide, by decide, rfl⟩

theorem witness_EachCommandSetsItsFlagOnly :
    Safe (st Dfr.none .ready []) ∧ (takesIndex .cCopyAll = true → (argByte [3] 0).toNat < (st Dfr.none .ready []).cfgCount.toNat) :=
  ⟨safe_s0 _ _, by decide⟩

theorem witness_ClearZeroesTheLogicalBytes : Safe (st Dfr.none .ready []) := safe_s0 _ _

theorem witness_ShowAndCopyAllOnlyRequest : (3 : Byte).toNat < s0.cfgCount.toNat := by decide

theorem witness_SetLedCountClamps : s0.par.wf = true := by decide

theorem witness_SetDefaultFromIndexReadsThePixel :
    Safe (st Dfr.none .ready []) ∧ (3 : Byte).toNat < (st Dfr.none .ready []).cfgCount.toNat := ⟨safe_s0 _ _, by decide⟩

theorem witness_SetLedColorWritesOnePixel :
    Safe (st Dfr.none .ready []) ∧ (3 : Byte).toNat < (st Dfr.none .ready []).cfgCount.toNat ∧
      11 < (3 : Byte).toNat * (st Dfr.none .ready []).bpp ∧
      (3 : Byte).toNat * (st Dfr.none .ready []).bpp + (st Dfr.none .ready []).bpp ≤ 16 := ⟨safe_s0 _ _, by decide⟩

theorem witness_SetAllColorFillsTheLogicalPixels :
    Safe (st Dfr.none .ready []) ∧ 3 < (st Dfr.none .ready []).cfgCount.toNat ∧ 3 < (st Dfr.none .ready []).bpp ∧
      (st Dfr.none .ready []).cfgCount.toNat * (st Dfr.none .ready []).bpp ≤ 16 := ⟨safe_s0 _ _, by decide⟩

theorem witness_PowerCommandDrivesTheOutput : (1 : Byte) ≠ 0 ∧ (0x80 : Byte) ≠ 0 := by decide

theorem witness_RainbowDrawsEveryLogicalByte : Safe (st Dfr.none .ready []) := safe_s0 _ _

theorem witness_DefaultPixelFormat : (0xFFD2 : BitVec 16).toNat % 256 = (0x00D2 : BitVec 16).toNat % 256 := by decide

theorem witness_PixelWriteByteByByte :
    Memory.wf [(4, 9), (7, 1)] ∧ 3 < s0.fmt.bpp.toNat ∧ 3 < 1 * s0.fmt.bpp.toNat ∧ 1 * s0.fmt.bpp.toNat + s0.fmt.bpp.toNat ≤ 8 := by
  decide

theorem witness_PixelReadAfterWrite :
    Memory.wf [(4, 9), (7, 1)] ∧ offsetsPermute (neoPixelDecode 0x00D2) ∧ offsetsPermute (neoPixelDecode 0x0052) := by decide

theorem witness_AnyPendingFlagMayBeServicedNext :
    ∀ f : Flag,
      let s := st ⟨true, true, true, true, true, true⟩ .ready [.ctrl f]
      Safe s ∧ s.ctrl = .ready ∧ s.dfr.get f = true ∧ s.inputs = .ctrl f :: [] :=
  fun f => ⟨safe_s0 _ _, rfl, by cases f <;> rfl, rfl⟩

theorem witness_CtrlWithoutAStepDoesNothing :
    let s := st Dfr.none .halt [.ctrl .render]
    let u := st Dfr.none .ready [.ctrl .render]
    s.par.wf = true ∧ s.inputs = .ctrl .render :: [] ∧ s.ctrl = .halt ∧
      u.par.wf = true ∧ u.inputs = .ctrl .render :: [] ∧ u.ctrl = .ready ∧ u.dfr.get .render = false :=
  ⟨by decide, rfl, rfl, by decide, rfl, rfl, rfl⟩

theorem witness_RenderServiceCommitsOnce :
    let s := st { Dfr.none with render := true } .ready [.ctrl .render, .ctrl .render]
    Safe s ∧ s.ctrl = .ready ∧ s.dfr.render = true ∧ s.inputs = .ctrl .render :: .ctrl .render :: [] :=
  ⟨safe_s0 _ _, rfl, rfl, rfl⟩

theorem witness_ShowDuringARenderIsLost :
    ∀ c ∈ [Cmd.cShow, .cClearShow, .cRainbow],
      let s := st { Dfr.none with render := true } .ready [.ctrl .render, .bus (.write [0, s0.par.codes.code c]), .ctrl .render]
      Safe s ∧ s.ctrl = .ready ∧ s.dfr.render = true ∧ (c = .cShow ∨ c = .cClearShow ∨ c = .cRainbow) ∧
        s.inputs = .ctrl .render :: .bus (.write [0, s.par.codes.code c]) :: .ctrl .render :: [] := by
  intro c hc
  exact ⟨safe_s0 _ _, rfl, rfl, by simpa using hc, rfl⟩

theorem witness_CopyServiceFillsEveryLogicalPixel :
    (let s := st { Dfr.none with copy := true } .ready (List.replicate 6 (.ctrl .copy))
     Safe s ∧ s.ctrl = .ready ∧ s.dfr.copy = true ∧ s.inputs = List.replicate (s.cfgCount.toNat + 2) (.ctrl .copy) ++ []) ∧
    (∀ x ∈ [[Input.ctrl .copy], []],
      (Safe (filling 3 x) ∧ (filling 3 x).ctrl = .copyFill ∧ (filling 3 x).ctrlMoves ∧
        (filling 3 x).fillI.toNat < (filling 3 x).fillN.toNat) ∧
      Safe (filling 4 x) ∧ (filling 4 x).ctrl = .copyFill ∧ (filling 4 x).ctrlMoves ∧
        (filling 4 x).fillI = (filling 4 x).fillN) := by
  refine ⟨⟨safe_s0 _ _, rfl, rfl, rfl⟩, fun x hx => ?_⟩
  have hm : ∀ i, (filling i x).ctrlMoves := fun i => by
    rcases List.mem_pair.1 hx with rfl | rfl
    · exact .inl ⟨_, _, rfl⟩
    · exact .inr ⟨rfl, nofun⟩
  exact ⟨⟨safe_filling _ _ (by decide), rfl, hm 3, (by decide : 3 < 4)⟩, safe_filling _ _ (by decide), rfl, hm 4, rfl⟩

theorem witness_SettleServiceRequestsARender :
    let s := st { Dfr.none with settle := true } .ready [.ctrl .settle, .ctrl .settle]
    s.par.wf = true ∧ s.ctrl = .ready ∧ s.dfr.settle = true ∧ s.inputs = .ctrl .settle :: .ctrl .settle :: [] :=
  ⟨by decide, rfl, rfl, rfl⟩

theorem witness_PersistServiceWritesTheRecord :
    let s := st { Dfr.none with persist := true } .ready (List.replicate 12 (.ctrl .persist))
    s.par.wf = true ∧ s.ctrl = .ready ∧ s.dfr.persist = true ∧ s.inputs = List.replicate 12 (.ctrl .persist) ++ [] :=
  ⟨by decide, rfl, rfl, rfl⟩

theorem witness_PersistedConfigurationLoadsBack :
    let s := st { Dfr.none with persist := true } .ready (List.replicate 12 (.ctrl .persist) ++ [.reset])
    Safe s ∧ s.ctrl = .ready ∧ s.dfr.persist = true ∧ s.inputs = List.replicate 12 (.ctrl .persist) ++ .reset :: [] :=
  ⟨safe_s0 _ _, rfl, rfl, rfl⟩

/-- VE9: before the first write, after one, after nine, and after ten. -/
theorem witness_TornRecordIsNeverTrusted :
    Safe (torn 0 ⟨0x5A, 0x10, 0x00, 0xD2, 4, 0, 0, 0, 0⟩) ∧ Safe (torn 1 ⟨0xA5, 0x10, 0x00, 0xD2, 4, 0, 0, 0, 0⟩) ∧
      Safe (torn 9 ⟨0xA5, 0x10, 0x00, 0xD2, 4, 1, 2, 3, 4⟩) ∧ Safe (torn 10 ⟨0x5A, 0x10, 0x00, 0xD2, 4, 1, 2, 3, 4⟩) ∧
      (∀ k n, (torn k n).ctrl = .persistWrite ∧ (torn k n).inputs = .reset :: []) ∧
      1 ≤ (torn 1 s0.nv).nvK.toNat ∧ (torn 9 s0.nv).nvK.toNat ≤ 9 ∧ (torn 10 s0.nv).nvK.toNat = 10 := by
  refine ⟨safe_torn _ _ ?_, safe_torn _ _ ?_, safe_torn _ _ ?_, safe_torn _ _ ?_, fun k n => ⟨rfl, rfl⟩, by decide, by decide, by decide⟩
  all_goals
    refine ⟨by decide, by decide, by decide, fun f hf hk => ?_, by decide⟩
    cases f <;> first | rfl | (exact absurd rfl hf) | (exact absurd hk (by decide))

theorem witness_ResetAndBootServices :
    let s := st { Dfr.none with reset := true } .ready [.ctrl .reset]
    let u := st { Dfr.none with boot := true } .ready [.ctrl .boot]
    s.par.wf = true ∧ s.ctrl = .ready ∧ s.dfr.reset = true ∧ s.inputs = .ctrl .reset :: [] ∧
      u.par.wf = true ∧ u.ctrl = .ready ∧ u.dfr.boot = true ∧ u.inputs = .ctrl .boot :: [] :=
  ⟨by decide, rfl, rfl, rfl, by decide, rfl, rfl, rfl⟩

theorem witness_QuietBlockComesToRest :
    let s := st ⟨true, true, true, true, true, true⟩ .ready []
    Safe s ∧ s.inputs = [] := ⟨safe_s0 _ _, rfl⟩

theorem witness_BusWritesNoControlState :
    ∃ t, exec .cmdShow (st { Dfr.none with copy := true } .ready []) = .next t ∧
      (st { Dfr.none with copy := true } .ready []).dfr.get .copy = true := ⟨_, rfl, rfl⟩

theorem witness_EachElementHasItsWriters :
    ∃ t, (Instr.cmdPower 0).wf s0.ctx = true ∧ exec (.cmdPower 0) s0 = .next t ∧ t.pwrOn ≠ s0.pwrOn := ⟨_, rfl, rfl, by decide⟩

theorem witness_CtrlWritesNoBusState :
    let s := st { Dfr.none with settle := true } .settleWait []
    (∃ t, ctrlStep .settle s = .next t ∧ t.dfr.get .render = true) ∧ s.ctrlMoves ∧
      ∃ t, step s = .next t ∧ t.dfr.get .render = true := ⟨⟨_, rfl, rfl⟩, .inr ⟨rfl, by decide⟩, _, rfl, rfl⟩

theorem witness_ResetLoadsTheRecordOrTheDefaults :
    (s0.par.wf = true ∧ State.reset.par.wf = true) ∧
    (∀ c : Ctrl, c ≠ .jumped → (st Dfr.none c [.reset]).resetMoves) ∧ (st Dfr.none .halt []).resetMoves ∧
      s0.nv.magic = s0.par.cfgMagic ∧
      ({ State.reset with inputs := [.reset] } : State).resetMoves ∧ State.reset.nv.magic ≠ State.reset.par.cfgMagic :=
  ⟨by decide, fun _ h => .inl ⟨h, _, rfl⟩, .inr ⟨rfl, rfl⟩, by decide, .inl ⟨by decide, _, rfl⟩, by decide⟩

theorem witness_ResetInitialisesEveryOtherElement :
    s0.par.wf = true ∧ (∀ c : Ctrl, c ≠ .jumped → (st Dfr.none c [.reset]).resetMoves) ∧ (st Dfr.none .halt []).resetMoves ∧
      ∃ t, step (st Dfr.none .halt []) = .next t ∧ 3 < t.cfgCount.toNat ∧ 3 < t.bpp ∧ t.cfgCount.toNat * t.bpp ≤ 16 :=
  ⟨by decide, fun _ h => .inl ⟨h, _, rfl⟩, .inr ⟨rfl, rfl⟩, _, rfl, by decide, by decide, by decide⟩

theorem witness_OnlyNvSurvivesReset :
    s0.par.wf = true ∧ (at_ 4 3).par = s0.par ∧ (at_ 4 3).nv = s0.nv ∧ at_ 4 3 ≠ s0 := by decide

theorem witness_ResetStateIsTheBootOfABlankRecord :
    State.reset.par = Params.specDefault ∧ State.reset.nv = ⟨0, 0, 0, 0, 0, 0, 0, 0, 0⟩ := ⟨rfl, rfl⟩

end Sys2Proof.Tests
end

/-! PROOFS. No step writes a parameter, takes back an observation or lowers the draw counter (R5, R9). -/

namespace Sys2Proof.Machine

variable {P : State → Prop} {s t u : State}

/-! ### Post-conditions of an outcome -/

/-- If the outcome is a next state, that state meets `P`; a fault or a refusal meets every post-condition. -/
def Ensures (P : State → Prop) (r : Result) : Prop := ∀ t, r = .next t → P t

theorem ensures_next (h : P s) : Ensures P (.next s) := by
  rintro _ ⟨⟩
  exact h

theorem ensures_ite {c : Prop} [Decidable c] {r r' : Result} (h : c → Ensures P r) (h' : ¬ c → Ensures P r') :
    Ensures P (if c then r else r') := by
  split
  · exact h ‹_›
  · exact h' ‹_›

theorem ensures_fbStore {st : List Host.Cell} {k : State → Result}
    (h : (∀ c ∈ st, c.1 < s.par.fbBytes) → Ensures P (k (s.withFb (Memory.writeAll s.fb st)))) :
    Ensures P (fbStore st s k) := by
  intro t ht
  obtain ⟨hr, hk⟩ := fbStore_next_iff.1 ht
  exact h hr t hk

theorem ensures_fbLoad {is : List Nat} {k : Result} (h : (∀ i ∈ is, i < s.par.fbBytes) → Ensures P k) :
    Ensures P (fbLoad is s k) := by
  intro t ht
  obtain ⟨hr, hk⟩ := fbLoad_next_iff.1 ht
  exact h hr t hk

theorem ensures_onCondition {c : Prop} [Decidable c] {k : Result} (h : c → Ensures P k) : Ensures P (onCondition c k) := by
  intro t ht
  obtain ⟨hc, hk⟩ := onCondition_next_iff.1 ht
  exact h hc t hk

theorem ensures_withIndex {i : Byte} {k : Result} (hd : P (s.emit (.drop .indexRange)))
    (h : i.toNat < s.cfgCount.toNat → Ensures P k) : Ensures P (withIndex i s k) :=
  ensures_ite h fun _ => ensures_next hd

/-! ### What no step takes back -/

/-- `t` is a later state than `s` as far as the parameters, the observation and the draw counter tell. -/
structure Extends (s t : State) : Prop where
  par   : t.par = s.par
  trace : s.trace <+: t.trace
  draws : s.draws ≤ t.draws

theorem Extends.trans (h : Extends s t) (h' : Extends t u) : Extends s u :=
  ⟨h'.par.trans h.par, h.trace.trans h'.trace, h.draws.trans h'.draws⟩

/-- An update that touches none of the three. -/
theorem Extends.of_same (hp : t.par = s.par) (ht : t.trace = s.trace) (hd : t.draws = s.draws) : Extends s t :=
  ⟨hp, ht ▸ List.prefix_rfl, hd.ge⟩

/-- An update that also emits one event. -/
theorem Extends.of_emit {e : Event} (hp : t.par = s.par) (ht : t.trace = s.trace ++ [e]) (hd : t.draws = s.draws) :
    Extends s t :=
  ⟨hp, ht ▸ List.prefix_append _ _, hd.ge⟩

/-- An update that also takes draws. -/
theorem Extends.of_draws {n : Nat} (hp : t.par = s.par) (ht : t.trace = s.trace) (hd : t.draws = s.draws + n) :
    Extends s t :=
  ⟨hp, ht ▸ List.prefix_rfl, hd ▸ Nat.le_add_right _ _⟩

/-- What follows an update that extends `s` extends `s`. -/
theorem Ensures.after {r : Result} (h : Ensures (Extends t) r) (hst : Extends s t) : Ensures (Extends s) r :=
  fun u hu => hst.trans (h u hu)

/-! ### Commands -/

theorem runCommand_extends (c : Cmd) (args : List Byte) (s : State) : Ensures (Extends s) (runCommand c args s) := by
  have drop : Extends s (s.emit (.drop .indexRange)) := .of_emit rfl rfl rfl
  cases c with
  | cShow => exact ensures_next (.of_same rfl rfl rfl)
  | cClear => exact ensures_fbStore fun _ => ensures_next (.of_same rfl rfl rfl)
  | cClearShow =>
    show Ensures _ (execCmdClearShow s)
    exact ensures_fbStore fun _ => ensures_next (.of_same rfl rfl rfl)
  | cCopyAll => exact ensures_withIndex drop fun _ => ensures_next (.of_same rfl rfl rfl)
  | cSetLedCount => exact ensures_next (.of_same rfl rfl rfl)
  | cSetPixelType => exact ensures_next (.of_same rfl rfl rfl)
  | cSetBusAddr => exact ensures_next (.of_same rfl rfl rfl)
  | cSetDefaultFromIndex =>
    exact ensures_withIndex drop fun _ => ensures_fbLoad fun _ => ensures_next (.of_same rfl rfl rfl)
  | cSetLedColor => exact ensures_withIndex drop fun _ => ensures_fbStore fun _ => ensures_next (.of_same rfl rfl rfl)
  | cSetAllColor => exact ensures_fbStore fun _ => ensures_next (.of_same rfl rfl rfl)
  | cSetDefaultColor => exact ensures_next (.of_same rfl rfl rfl)
  | cPower => exact ensures_ite (fun _ => ensures_next (.of_same rfl rfl rfl)) fun _ => ensures_next (.of_same rfl rfl rfl)
  | cRainbow =>
    show Ensures _ (execCmdRainbow s)
    exact ensures_fbStore fun _ => ensures_next (.of_draws rfl rfl rfl)
  | cDeviceReset => exact ensures_next (.of_draws rfl rfl rfl)

theorem execCmdWrite_extends (k : Byte) (args : List Byte) (s : State) : Ensures (Extends s) (execCmdWrite k args s) := by
  unfold execCmdWrite
  split
  · exact ensures_next (.of_emit rfl rfl rfl)
  · exact ensures_ite (fun _ => ensures_next (.of_emit rfl rfl rfl)) fun _ => runCommand_extends _ _ s

/-! ### Reads -/

theorem readLedAt_extends (s : State) : Ensures (Extends s) (readLedAt s) :=
  ensures_fbLoad fun _ => ensures_next (.of_emit rfl rfl rfl)

theorem readBlAt_extends (s : State) : Ensures (Extends s) (readBlAt s) := by
  intro t ht
  obtain ⟨v, -, rfl⟩ := readBlAt_next_iff.1 ht
  exact .of_emit rfl rfl rfl

theorem execReadFix_extends (s : State) : Ensures (Extends s) (execReadFix s) := by
  have moved : ∀ a c, Extends s (s.setPointer a c) := fun _ _ => .of_same rfl rfl rfl
  refine ensures_onCondition fun _ => ?_
  split
  case h_1 | h_2 | h_3 => exact (readBlAt_extends _).after (moved _ _)
  case h_4 | h_5 | h_6 => exact (readLedAt_extends _).after (moved _ _)

/-! ### Bus operations -/

theorem exec_extends (i : Instr) (s : State) : Ensures (Extends s) (exec i s) := by
  cases i with
  | txnEmpty => exact ensures_next (.of_emit rfl rfl rfl)
  | addrSetCmd => exact ensures_next (.of_same rfl rfl rfl)
  | addrSetLed _ => exact ensures_onCondition fun _ => ensures_next (.of_same rfl rfl rfl)
  | addrSetClamp _ => exact ensures_onCondition fun _ => ensures_next (.of_same rfl rfl rfl)
  | addrSetBlIdent => exact ensures_next (.of_same rfl rfl rfl)
  | addrSetBlReset => exact ensures_next (.of_same rfl rfl rfl)
  | addrSetBlJump => exact ensures_next (.of_same rfl rfl rfl)
  | regWrite _ _ => exact ensures_onCondition fun _ => ensures_fbStore fun _ => ensures_next (.of_same rfl rfl rfl)
  | regWriteDrop _ _ => exact ensures_onCondition fun _ => ensures_next (.of_emit rfl rfl rfl)
  | cmdWrite k args => exact execCmdWrite_extends k args s
  | readCmd => exact ensures_onCondition fun _ => ensures_next (.of_emit rfl rfl rfl)
  | readLed => exact ensures_onCondition fun _ => readLedAt_extends s
  | readBl => exact ensures_onCondition fun _ => readBlAt_extends s
  | readFix => exact execReadFix_extends s
  | cmdShow => exact runCommand_extends .cShow [] s
  | cmdClear => exact runCommand_extends .cClear [] s
  | cmdClearShow => exact runCommand_extends .cClearShow [] s
  | cmdCopyAll i => exact runCommand_extends .cCopyAll [i] s
  | cmdSetLedCount n => exact runCommand_extends .cSetLedCount [n] s
  | cmdSetPixelType hi lo => exact runCommand_extends .cSetPixelType [hi, lo] s
  | cmdSetBusAddr a => exact runCommand_extends .cSetBusAddr [a] s
  | cmdSetDefaultFromIndex i => exact runCommand_extends .cSetDefaultFromIndex [i] s
  | cmdSetLedColor i r g b w => exact runCommand_extends .cSetLedColor [i, r, g, b, w] s
  | cmdSetAllColor r g b w => exact runCommand_extends .cSetAllColor [r, g, b, w] s
  | cmdSetDefaultColor r g b w => exact runCommand_extends .cSetDefaultColor [r, g, b, w] s
  | cmdPower v => exact runCommand_extends .cPower [v] s
  | cmdRainbow => exact runCommand_extends .cRainbow [] s
  | cmdDeviceReset => exact runCommand_extends .cDeviceReset [] s

theorem takeBusEvent_extends (e : BusEvent) (s : State) : Ensures (Extends s) (takeBusEvent e s) := by
  unfold takeBusEvent
  split
  · exact (exec_extends _ _).after (.of_emit rfl rfl rfl)
  · rintro _ ⟨⟩

/-! ### CTRL and the reset step -/

theorem startRender_extends (s : State) : Ensures (Extends s) (startRender s) :=
  ensures_fbLoad fun _ => ensures_next (.of_emit rfl rfl rfl)

theorem startCopy_extends (s : State) : Ensures (Extends s) (startCopy s) :=
  ensures_fbLoad fun _ => ensures_next (.of_same rfl rfl rfl)

theorem startService_extends (f : Flag) (s : State) : Ensures (Extends s) (startService f s) := by
  have kick : Extends s (s.emit .wdtKick) := .of_emit rfl rfl rfl
  cases f with
  | render => exact (startRender_extends _).after kick
  | copy => exact (startCopy_extends _).after kick
  | persist => exact ensures_next (kick.trans (.of_same rfl rfl rfl))
  | settle => exact ensures_next (kick.trans (.of_same rfl rfl rfl))
  | reset => exact ensures_next (kick.trans (.of_emit rfl rfl rfl))
  | boot => exact ensures_next (kick.trans (.of_emit rfl rfl rfl))

theorem ctrlContinue_extends (s : State) : Ensures (Extends s) (ctrlContinue s) := by
  have stutter : Ensures (Extends s) (.next s) := ensures_next (.of_same rfl rfl rfl)
  unfold ctrlContinue
  split
  case h_1 | h_6 | h_7 => exact stutter
  case h_2 | h_4 => exact ensures_next (.of_same rfl rfl rfl)
  case h_3 =>
    intro t ht
    obtain ⟨-, -, rfl⟩ | ⟨-, rfl⟩ | ⟨-, rfl⟩ := copyFillStep_cases ht <;> exact .of_same rfl rfl rfl
  case h_5 =>
    intro t ht
    obtain ⟨f, v, -, rfl⟩ | ⟨-, rfl⟩ | ⟨-, rfl⟩ := persistStep_cases ht
    · exact .of_emit rfl rfl rfl
    · exact .of_emit rfl rfl rfl
    · exact .of_same rfl rfl rfl

theorem loadConfig_extends (s : State) : Extends s s.loadConfig :=
  .of_same s.par_loadConfig s.trace_loadConfig s.draws_loadConfig

theorem resetStep_extends (s : State) : Ensures (Extends s) (resetStep s) := by
  have observed : Extends s { s with trace := s.trace ++ Event.reset :: s.nvReads } :=
    ⟨rfl, List.prefix_append _ _, le_rfl⟩
  have loaded := observed.trans (loadConfig_extends _)
  exact ensures_fbStore fun _ => ensures_next (loaded.trans (.of_same rfl rfl rfl))

theorem ctrlStep_extends (pick : Flag) (s : State) : Ensures (Extends s) (ctrlStep pick s) := by
  unfold ctrlStep
  split
  case h_1 => exact ensures_ite (fun _ => startService_extends pick s) fun _ => ensures_next (.of_same rfl rfl rfl)
  all_goals exact ctrlContinue_extends s

theorem quietStep_extends (s : State) : Ensures (Extends s) (quietStep s) := by
  unfold quietStep
  split
  case h_1 =>
    split
    · exact ensures_next (.of_same rfl rfl rfl)
    · exact startService_extends _ s
    · exact (startService_extends _ _).after (.of_draws rfl rfl rfl)
  case h_6 => exact resetStep_extends s
  all_goals exact ctrlContinue_extends s

/-! ### The step -/

theorem takeInput_extends (x : Input) (s : State) : Ensures (Extends s) (takeInput x s) := by
  cases x with
  | bus e => exact takeBusEvent_extends e s
  | ctrl pick => exact ctrlStep_extends pick s
  | reset => exact resetStep_extends s

theorem step_extends (s : State) : Ensures (Extends s) (step s) := by
  refine ensures_ite (fun _ => ?_) fun _ => ensures_ite (fun _ => ?_) fun _ => ?_
  · rintro _ ⟨⟩
  · split
    · exact quietStep_extends s
    · exact (takeInput_extends _ _).after (.of_same rfl rfl rfl)
  · rintro _ ⟨⟩

/-- Settles O12: every operation of BUS, every step of CTRL and the reset step extend the state they start from. -/
theorem stepKeepsParametersAndObservation : Obligations.StepKeepsParametersAndObservation := by
  intro s t h
  obtain ⟨hpar, htrace, hdraws⟩ := step_extends s t h
  exact ⟨hpar, htrace, hdraws⟩

end Sys2Proof.Machine

/-! PROOFS. A safe state always has a next state (R8, R58): what the decoder gives meets its row's condition, under that condition
every bus operation completes, and so does every step of CTRL and the reset step. -/

namespace Sys2Proof

variable {c : Ctx} {a : Byte} {data : List Byte}

/-! ### The conditions of the rows -/

theorem Instr.wf_regWrite_iff : (Instr.regWrite a data).wf c = true ↔
    regClass c.par c.count a = .led ∧ data ≠ [] ∧ 1 + data.length ≤ c.par.maxTxnLen := by
  simp [Instr.wf, and_assoc]

theorem Instr.wf_regWriteDrop_iff : (Instr.regWriteDrop a data).wf c = true ↔
    a ≠ 0 ∧ regClass c.par c.count a ≠ .led ∧ data ≠ [] ∧ 1 + data.length ≤ c.par.maxTxnLen := by
  simp [Instr.wf, and_assoc]

theorem Instr.wf_readFix_iff :
    Instr.readFix.wf c = true ↔ c.curAddr ≠ 0 ∧ c.inPixel = false ∧ c.inResp = false := by
  simp [Instr.wf, and_assoc]

/-! ### What the decoder gives is well-formed -/

theorem buildCommand_wf (c : Ctx) (cmd : Cmd) (args : List Byte) : (buildCommand cmd args).wf c = true := by
  cases cmd <;> rfl

theorem decodeCommand_wf {k : Byte} {args : List Byte} (hl : 2 + args.length ≤ c.par.maxTxnLen) :
    (decodeCommand c.par.codes k args).wf c = true := by
  unfold decodeCommand
  split
  · next hk => simp [Instr.wf, hk, hl]
  · next cmd hk =>
    split
    · next hs => simp [Instr.wf, hk, hs, hl]
    · exact buildCommand_wf c cmd args

theorem decodeWrite_wf {T : List Byte} (hT : T.length ≤ c.par.maxTxnLen) : (decodeWrite c T).wf c = true := by
  match T with
  | [] => rfl
  | [a] =>
    simp only [decodeWrite]
    split <;> simp [Instr.wf, *]
  | a :: d :: ds =>
    have hl : 1 + (d :: ds).length ≤ c.par.maxTxnLen := by rwa [Nat.add_comm]
    simp only [decodeWrite]
    split_ifs with h0 hled
    · exact decodeCommand_wf (by simp only [List.length_cons] at hl; omega)
    · exact Instr.wf_regWrite_iff.2 ⟨hled, List.cons_ne_nil d ds, hl⟩
    · exact Instr.wf_regWriteDrop_iff.2 ⟨h0, hled, List.cons_ne_nil d ds, hl⟩

theorem decodeRead_wf (c : Ctx) : (decodeRead c).wf c = true := by
  have nonzero : regClass c.par c.count c.curAddr ≠ .cmd → c.curAddr ≠ 0 := mt regClass_cmd_iff.2
  unfold decodeRead
  split
  case h_1 h => exact decide_eq_true (regClass_cmd_iff.1 h)
  case h_6 h =>
    exact Instr.wf_readFix_iff.2 ⟨nonzero (by simp [h]), by simp [Ctx.inPixel, h], by simp [Ctx.inResp, blResp, h]⟩
  all_goals
    next h =>
    split
    · next hin => simp [Instr.wf, Ctx.inPixel, Ctx.inResp, blResp, h, hin]
    · next hout =>
      exact Instr.wf_readFix_iff.2
        ⟨nonzero (by simp [h]), by simp [Ctx.inPixel, h, hout], by simp [Ctx.inResp, blResp, h, hout]⟩

/-- R63: the operation a deliverable event decodes to meets the condition of its row. -/
theorem decode_wf {e : BusEvent} (he : ∀ T, e = .write T → T.length ≤ c.par.maxTxnLen) :
    ∃ i, decode c e = .ok i ∧ i.wf c = true := by
  cases e with
  | write T => exact ⟨_, if_pos (he T rfl), decodeWrite_wf (he T rfl)⟩
  | read => exact ⟨_, rfl, decodeRead_wf c⟩

end Sys2Proof

namespace Sys2Proof.Machine

variable {s : State}

/-! ### Commands -/

theorem State.logicalBytes_le_fbBytes (hc : s.cfgCount.toNat ≤ s.par.maxLeds) : s.logicalBytes ≤ s.par.fbBytes :=
  logical_le_fbBytes hc s.bpp_bounds.2

theorem withIndex_completes {i : Byte} {k : Result} (h : i.toNat < s.cfgCount.toNat → ∃ t, k = .next t) :
    ∃ t, withIndex i s k = .next t := by
  by_cases hi : i.toNat < s.cfgCount.toNat
  · rw [withIndex_of_lt hi]
    exact h hi
  · exact ⟨_, withIndex_of_ge (Nat.le_of_not_lt hi)⟩

/-- A command stores and loads inside the logical bytes only, so it completes; a bad index is dropped. -/
theorem runCommand_completes (hc : s.cfgCount.toNat ≤ s.par.maxLeds) (c : Cmd) (args : List Byte) :
    ∃ t, runCommand c args s = .next t := by
  have hl := State.logicalBytes_le_fbBytes hc
  have zero : ∀ x ∈ zeroStores s.logicalBytes, x.1 < s.par.fbBytes := fun x hx => (zeroStores_lt x hx).trans_le hl
  cases c with
  | cShow => exact ⟨_, rfl⟩
  | cClear => exact ⟨_, fbStore_of_range zero⟩
  | cClearShow =>
    show ∃ t, execCmdClearShow s = .next t
    exact ⟨_, fbStore_of_range zero⟩
  | cCopyAll => exact withIndex_completes fun _ => ⟨_, rfl⟩
  | cSetLedCount => exact ⟨_, rfl⟩
  | cSetPixelType => exact ⟨_, rfl⟩
  | cSetBusAddr => exact ⟨_, rfl⟩
  | cSetDefaultFromIndex =>
    exact withIndex_completes fun hi => ⟨_, fbLoad_of_range (pixelIndices_range (hi.trans_le hc))⟩
  | cSetLedColor => exact withIndex_completes fun hi => ⟨_, fbStore_of_range (pixelStores_range (hi.trans_le hc))⟩
  | cSetAllColor => exact ⟨_, fbStore_of_range (fillStores_range hc)⟩
  | cSetDefaultColor => exact ⟨_, rfl⟩
  | cPower =>
    by_cases hv : argByte args 0 ≠ 0
    · exact ⟨_, if_pos hv⟩
    · exact ⟨_, if_neg hv⟩
  | cRainbow =>
    show ∃ t, execCmdRainbow s = .next t
    exact ⟨_, fbStore_of_range fun x hx => (rainbowStores_lt x hx).trans_le hl⟩
  | cDeviceReset => exact ⟨_, rfl⟩

theorem execCmdWrite_completes (hc : s.cfgCount.toNat ≤ s.par.maxLeds) (k : Byte) (args : List Byte) :
    ∃ t, execCmdWrite k args s = .next t := by
  unfold execCmdWrite
  split
  · exact ⟨_, rfl⟩
  · split
    · exact ⟨_, rfl⟩
    · exact runCommand_completes hc _ args

/-! ### Register accesses -/

theorem execRegWrite_completes {a : Byte} {data : List Byte} (hc : s.cfgCount.toNat ≤ s.par.maxLeds)
    (ha : s.classOf a = .led) (hd : data ≠ []) : ∃ t, execRegWrite a data s = .next t := by
  obtain ⟨h1, hac⟩ := regClass_led_iff.1 ha
  obtain ⟨hb3, hb4⟩ := s.bpp_bounds
  have inside : ∀ x ∈ (regWalk s.cfgCount s.bpp a 0 data).1, x.1 < s.par.fbBytes := fun x hx =>
    (regWalk_lt hb3 hb4 data h1 hac (by simp; omega) x hx).trans_le (State.logicalBytes_le_fbBytes hc)
  exact ⟨_, (onCondition_of ⟨ha, hd⟩).trans (fbStore_of_range inside)⟩

theorem readLedAt_completes (h : fbIndex s.bpp s.curAddr s.cursor < s.par.fbBytes) : ∃ t, readLedAt s = .next t :=
  ⟨_, readLedAt_next_iff.2 ⟨h, rfl⟩⟩

theorem readBlAt_completes (h : s.cursor.toNat < (blResp s.par (s.classOf s.curAddr)).length) :
    ∃ t, readBlAt s = .next t :=
  ⟨_, readBlAt_next_iff.2 ⟨_, List.getElem?_eq_getElem h, rfl⟩⟩

/-- The two pointers R90 corrects to name a byte: the first of the buffer, or the first of a response sequence. -/
theorem execReadFix_completes (hp : s.par.wf = true) (h : s.curAddr ≠ 0 ∧ s.ctx.inPixel = false ∧ s.ctx.inResp = false) :
    ∃ t, execReadFix s = .next t := by
  obtain ⟨⟨hleds, -⟩, -⟩ := Params.wf_bounds hp
  obtain ⟨⟨hident, -⟩, ⟨hreset, -⟩, ⟨hjump, -⟩⟩ := Params.wf_resp hp
  have first : ∃ t, readLedAt (s.setPointer 1 0) = .next t :=
    readLedAt_completes (by simp [fbIndex, Params.fbBytes]; omega)
  rw [execReadFix, onCondition_of h]
  split
  case h_1 hcl => exact readBlAt_completes (by simpa [hcl, blResp] using hident)
  case h_2 hcl => exact readBlAt_completes (by simpa [hcl, blResp] using hreset)
  case h_3 hcl => exact readBlAt_completes (by simpa [hcl, blResp] using hjump)
  case h_4 | h_5 | h_6 => exact first

/-! ### Bus operations -/

/-- An operation that meets its row's condition completes. -/
theorem exec_completes {i : Instr} (hp : s.par.wf = true) (hc : s.cfgCount.toNat ≤ s.par.maxLeds) (hwf : i.wf s.ctx = true) :
    ∃ t, exec i s = .next t := by
  cases i with
  | txnEmpty => exact ⟨_, rfl⟩
  | addrSetCmd => exact ⟨_, rfl⟩
  | addrSetLed a => exact ⟨_, onCondition_of (of_decide_eq_true hwf)⟩
  | addrSetClamp a => exact ⟨_, onCondition_of (of_decide_eq_true hwf)⟩
  | addrSetBlIdent => exact ⟨_, rfl⟩
  | addrSetBlReset => exact ⟨_, rfl⟩
  | addrSetBlJump => exact ⟨_, rfl⟩
  | regWrite a data =>
    obtain ⟨hled, hd, -⟩ := Instr.wf_regWrite_iff.1 hwf
    exact execRegWrite_completes hc hled hd
  | regWriteDrop a data =>
    obtain ⟨h0, hled, hd, -⟩ := Instr.wf_regWriteDrop_iff.1 hwf
    exact ⟨_, onCondition_of ⟨h0, hled, hd⟩⟩
  | cmdWrite k args => exact execCmdWrite_completes hc k args
  | readCmd => exact ⟨_, onCondition_of (of_decide_eq_true hwf)⟩
  | readLed =>
    obtain ⟨h1, hac, hcur⟩ := s.inPixel_iff.1 hwf
    obtain ⟨t, ht⟩ := readLedAt_completes ((fbIndex_lt h1 hac hcur).trans_le (State.logicalBytes_le_fbBytes hc))
    exact ⟨t, (onCondition_of hwf).trans ht⟩
  | readBl =>
    obtain ⟨t, ht⟩ := readBlAt_completes (s.inResp_iff.1 hwf)
    exact ⟨t, (onCondition_of hwf).trans ht⟩
  | readFix => exact execReadFix_completes hp (Instr.wf_readFix_iff.1 hwf)
  | cmdShow => exact runCommand_completes hc .cShow []
  | cmdClear => exact runCommand_completes hc .cClear []
  | cmdClearShow => exact runCommand_completes hc .cClearShow []
  | cmdCopyAll i => exact runCommand_completes hc .cCopyAll [i]
  | cmdSetLedCount n => exact runCommand_completes hc .cSetLedCount [n]
  | cmdSetPixelType hi lo => exact runCommand_completes hc .cSetPixelType [hi, lo]
  | cmdSetBusAddr a => exact runCommand_completes hc .cSetBusAddr [a]
  | cmdSetDefaultFromIndex i => exact runCommand_completes hc .cSetDefaultFromIndex [i]
  | cmdSetLedColor i r g b w => exact runCommand_completes hc .cSetLedColor [i, r, g, b, w]
  | cmdSetAllColor r g b w => exact runCommand_completes hc .cSetAllColor [r, g, b, w]
  | cmdSetDefaultColor r g b w => exact runCommand_completes hc .cSetDefaultColor [r, g, b, w]
  | cmdPower v => exact runCommand_completes hc .cPower [v]
  | cmdRainbow => exact runCommand_completes hc .cRainbow []
  | cmdDeviceReset => exact runCommand_completes hc .cDeviceReset []

theorem takeBusEvent_completes {e : BusEvent} (hp : s.par.wf = true) (hc : s.cfgCount.toNat ≤ s.par.maxLeds)
    (he : ∀ T, e = .write T → T.length ≤ s.par.maxTxnLen) : ∃ t, takeBusEvent e s = .next t := by
  obtain ⟨i, hi, hwf⟩ := decode_wf (c := s.ctx) he
  rw [takeBusEvent, hi]
  exact exec_completes (s := s.emit (.bus e)) hp hc hwf

/-! ### CTRL and the reset step -/

theorem startRender_completes (hc : s.cfgCount.toNat ≤ s.par.maxLeds) : ∃ t, startRender s = .next t :=
  ⟨_, fbLoad_of_range fun _ hi => (List.mem_range.1 hi).trans_le (State.logicalBytes_le_fbBytes hc)⟩

theorem startCopy_completes (hi : s.copyIdx.toNat < s.par.maxLeds) : ∃ t, startCopy s = .next t :=
  ⟨_, fbLoad_of_range (pixelIndices_range hi)⟩

theorem startService_completes (hc : s.cfgCount.toNat ≤ s.par.maxLeds) (hi : s.copyIdx.toNat < s.par.maxLeds) (f : Flag) :
    ∃ t, startService f s = .next t := by
  cases f with
  | render => exact startRender_completes (s := s.emit .wdtKick) hc
  | copy => exact startCopy_completes (s := s.emit .wdtKick) hi
  | persist => exact ⟨_, rfl⟩
  | settle => exact ⟨_, rfl⟩
  | reset => exact ⟨_, rfl⟩
  | boot => exact ⟨_, rfl⟩

theorem copyFillStep_completes (hn : s.fillN.toNat ≤ s.par.maxLeds) : ∃ t, copyFillStep s = .next t := by
  unfold copyFillStep
  split
  · next hi => exact ⟨_, fbStore_of_range (pixelStores_range (hi.trans_le hn))⟩
  · split
    · exact ⟨_, rfl⟩
    · exact ⟨_, rfl⟩

theorem persistStep_completes (s : State) : ∃ t, persistStep s = .next t := by
  unfold persistStep
  split
  · exact ⟨_, rfl⟩
  · split
    · exact ⟨_, rfl⟩
    · exact ⟨_, rfl⟩

theorem ctrlContinue_completes (hn : s.ctrl = .copyFill → s.fillN.toNat ≤ s.par.maxLeds) :
    ∃ t, ctrlContinue s = .next t := by
  unfold ctrlContinue
  split
  case h_3 h => exact copyFillStep_completes (hn h)
  case h_5 => exact persistStep_completes s
  all_goals exact ⟨_, rfl⟩

theorem resetStep_completes (hp : s.par.wf = true) : ∃ t, resetStep s = .next t := ⟨_, resetStep_of_wf hp⟩

theorem ctrlStep_completes (pick : Flag) (hc : s.cfgCount.toNat ≤ s.par.maxLeds) (hi : s.copyIdx.toNat < s.par.maxLeds)
    (hn : s.ctrl = .copyFill → s.fillN.toNat ≤ s.par.maxLeds) : ∃ t, ctrlStep pick s = .next t := by
  unfold ctrlStep
  split
  case h_1 =>
    split
    · exact startService_completes hc hi pick
    · exact ⟨_, rfl⟩
  all_goals exact ctrlContinue_completes hn

theorem quietStep_completes (hp : s.par.wf = true) (hc : s.cfgCount.toNat ≤ s.par.maxLeds)
    (hi : s.copyIdx.toNat < s.par.maxLeds) (hn : s.ctrl = .copyFill → s.fillN.toNat ≤ s.par.maxLeds) :
    ∃ t, quietStep s = .next t := by
  unfold quietStep
  split
  case h_1 =>
    split
    · exact ⟨_, rfl⟩
    · exact startService_completes hc hi _
    · exact startService_completes (s := s.tookDraws 1) hc hi _
  case h_6 => exact resetStep_completes hp
  all_goals exact ctrlContinue_completes hn

/-! ### The step -/

/-- Settles O7: the parameters, the count, `COPY_IDX` and the latched fill length of a safe state keep every access inside the
buffer, whichever agent moves. -/
theorem safeStatesNeverStop : Obligations.SafeStatesNeverStop := by
  intro s hs hj hT
  have hp := hs.params
  obtain ⟨-, hc⟩ := hs.count
  have hn : s.ctrl = .copyFill → s.fillN.toNat ≤ s.par.maxLeds := fun h => (hs.fill h).2.2
  cases hin : s.inputs with
  | nil =>
    rw [step_nil hp hj hin]
    exact quietStep_completes hp hc hs.copyIdx hn
  | cons x rest =>
    rw [step_cons hp hj hin]
    cases x with
    | bus e => exact takeBusEvent_completes hp hc fun T he => hT T rest (he ▸ hin)
    | ctrl pick => exact ctrlStep_completes pick hc hs.copyIdx hn
    | reset => exact resetStep_completes hp

end Sys2Proof.Machine

/-! PROOFS. What a completed bus operation can do, said once, and what it leaves alone (R31, R134, R143). -/

namespace Sys2Proof.Machine

variable {s t : State} {i : Instr}

/-! ### The pointer invariant -/

/-- R29 by what a read finds under the pointer: `RESP`, a byte of a pixel, or a byte of a response sequence. -/
theorem State.pointerOk_iff (s : State) :
    s.pointerOk ↔ (s.curAddr = 0 ∧ s.cursor = 0) ∨ s.fbValid s.curAddr s.cursor ∨
      s.cursor.toNat < (blResp s.par (s.classOf s.curAddr)).length := by
  have hcmd : s.classOf s.curAddr = .cmd ↔ s.curAddr = 0 := regClass_cmd_iff
  have hled : s.classOf s.curAddr = .led ↔ 1 ≤ s.curAddr.toNat ∧ s.curAddr.toNat ≤ s.cfgCount.toNat := regClass_led_iff
  unfold State.pointerOk State.fbValid
  rw [← hcmd, ← and_assoc, ← hled]
  split <;> simp [*, blResp]

theorem State.pointerOk_zero (ha : s.curAddr = 0) (hc : s.cursor = 0) : s.pointerOk :=
  s.pointerOk_iff.2 (.inl ⟨ha, hc⟩)

theorem State.pointerOk_of_fbValid (h : s.fbValid s.curAddr s.cursor) : s.pointerOk := s.pointerOk_iff.2 (.inr (.inl h))

theorem State.pointerOk_of_inResp (h : s.cursor.toNat < (blResp s.par (s.classOf s.curAddr)).length) : s.pointerOk :=
  s.pointerOk_iff.2 (.inr (.inr h))

/-- The first byte of an LED register is a byte of its pixel. -/
theorem State.fbValid_zero {a : Byte} (h : 1 ≤ a.toNat ∧ a.toNat ≤ s.cfgCount.toNat) : s.fbValid a 0 :=
  ⟨h.1, h.2, Nat.lt_of_lt_of_le (by decide) s.bpp_bounds.1⟩

theorem State.fbValid_advance (h : s.fbValid s.curAddr s.cursor) :
    s.fbValid (advance s.cfgCount s.bpp s.curAddr s.cursor).1 (advance s.cfgCount s.bpp s.curAddr s.cursor).2 :=
  advance_valid s.bpp_bounds.1 s.bpp_bounds.2 h.1 h.2.1 h.2.2

theorem Safe.blIdent_pointerOk (hs : Safe s) : (s.setPointer s.par.blAddrIdent 0).pointerOk := by
  have hc : s.classOf s.par.blAddrIdent = .blIdent := regClass_blIdent hs.params hs.count.2
  exact State.pointerOk_of_inResp (by simpa [hc, blResp] using (Params.wf_resp hs.params).1.1)

theorem Safe.blReset_pointerOk (hs : Safe s) : (s.setPointer s.par.blAddrReset 0).pointerOk := by
  have hc : s.classOf s.par.blAddrReset = .blReset := regClass_blReset hs.params hs.count.2
  exact State.pointerOk_of_inResp (by simpa [hc, blResp] using (Params.wf_resp hs.params).2.1.1)

theorem Safe.blJump_pointerOk (hs : Safe s) : (s.setPointer s.par.blAddrJump 0).pointerOk := by
  have hc : s.classOf s.par.blAddrJump = .blJump := regClass_blJump hs.params hs.count.2
  exact State.pointerOk_of_inResp (by simpa [hc, blResp] using (Params.wf_resp hs.params).2.2.1)

/-- A safe pointer is consistent, so the row `READ_FIX` does not apply (R29, R90). -/
theorem Safe.not_readFix (hs : Safe s) : ¬ (s.curAddr ≠ 0 ∧ s.ctx.inPixel = false ∧ s.ctx.inResp = false) := by
  rintro ⟨h0, hpix, hresp⟩
  rcases s.pointerOk_iff.1 hs.pointer with ⟨ha, -⟩ | hv | hr
  · exact h0 ha
  · exact Bool.eq_false_iff.1 hpix (s.inPixel_iff.2 hv)
  · exact Bool.eq_false_iff.1 hresp (s.inResp_iff.2 hr)

/-! ### What a bus operation can do -/

/-- `BusEffect s i t`: the operation `i`, completed in `s`, may leave `t`. An operation that stores nothing and sets no flag is `quiet`:
it moves the pointer at most, and from a safe state to where R29 allows it. -/
inductive BusEffect (s : State) : Instr → State → Prop
  | quiet {i a c tr} (hp : Safe s → (s.setPointer a c).pointerOk) :
      BusEffect s i { s with curAddr := a, cursor := c, trace := tr }
  | addrSetBlReset : BusEffect s .addrSetBlReset ((s.setPointer s.par.blAddrReset 0).setFlag .reset)
  | addrSetBlJump : BusEffect s .addrSetBlJump ((s.setPointer s.par.blAddrJump 0).setFlag .boot)
  | regWrite {a data st b c} (hst : ∀ x ∈ st, x.1 < s.par.fbBytes) (hp : s.fbValid b c) :
      BusEffect s (.regWrite a data) ((s.withFb (Memory.writeAll s.fb st)).setPointer b c)
  | dispatched {k args c t} (hk : s.par.codes.find k = some c) (ha : c.arity ≤ args.length)
      (h : BusEffect s (buildCommand c args) t) : BusEffect s (.cmdWrite k args) t
  | cmdShow : BusEffect s .cmdShow ((s.setFlag .render).setPointer 0 0)
  | cmdClear {st} (hst : ∀ x ∈ st, x.1 < s.par.fbBytes) :
      BusEffect s .cmdClear ((s.withFb (Memory.writeAll s.fb st)).setPointer 0 0)
  | cmdClearShow {st} (hst : ∀ x ∈ st, x.1 < s.par.fbBytes) :
      BusEffect s .cmdClearShow (((s.withFb (Memory.writeAll s.fb st)).setFlag .render).setPointer 0 0)
  | cmdCopyAll {x} (hx : x.toNat < s.cfgCount.toNat) :
      BusEffect s (.cmdCopyAll x) (({ s with copyIdx := x }.setFlag .copy).setPointer 0 0)
  | cmdSetLedCount {n} :
      BusEffect s (.cmdSetLedCount n) (({ s with cfgCount := clampCount s.par n }.setFlag .persist).setPointer 0 0)
  | cmdSetPixelType {hi lo} :
      BusEffect s (.cmdSetPixelType hi lo) (({ s with cfgPtype := hi ++ lo }.setFlag .persist).setPointer 0 0)
  | cmdSetBusAddr {a} : BusEffect s (.cmdSetBusAddr a) (({ s with cfgBusAddr := a }.setFlag .persist).setPointer 0 0)
  | cmdSetDefaultFromIndex {x col} :
      BusEffect s (.cmdSetDefaultFromIndex x) (({ s with cfgDefColor := col }.setFlag .persist).setPointer 0 0)
  | cmdSetLedColor {x r g b w st} (hst : ∀ x ∈ st, x.1 < s.par.fbBytes) :
      BusEffect s (.cmdSetLedColor x r g b w) ((s.withFb (Memory.writeAll s.fb st)).setPointer 0 0)
  | cmdSetAllColor {r g b w st} (hst : ∀ x ∈ st, x.1 < s.par.fbBytes) :
      BusEffect s (.cmdSetAllColor r g b w) ((s.withFb (Memory.writeAll s.fb st)).setPointer 0 0)
  | cmdSetDefaultColor {r g b w} :
      BusEffect s (.cmdSetDefaultColor r g b w) (({ s with cfgDefColor := ⟨r, g, b, w⟩ }.setFlag .persist).setPointer 0 0)
  | cmdPowerOn {v} (hv : v ≠ 0) :
      BusEffect s (.cmdPower v) (({ s with pwrOn := true }.setFlag .settle).setPointer 0 0)
  | cmdPowerOff : BusEffect s (.cmdPower 0) ({ s with pwrOn := false }.setPointer 0 0)
  | cmdRainbow {st n} (hst : ∀ x ∈ st, x.1 < s.par.fbBytes) :
      BusEffect s .cmdRainbow ((((s.withFb (Memory.writeAll s.fb st)).tookDraws n).setFlag .render).setPointer 0 0)
  | cmdDeviceReset {v} :
      BusEffect s .cmdDeviceReset ((({ s with resp := v }.tookDraws 1).setFlag .reset).setPointer 0 0)

/-- A drop leaves the pointer where it is (R137). -/
theorem BusEffect.drop (r : Drop) : BusEffect s i (s.emit (.drop r)) := .quiet Safe.pointer

theorem readLedAt_effect (h : s.ctx.inPixel = true) : Ensures (BusEffect s i) (readLedAt s) := by
  intro t ht
  obtain ⟨-, rfl⟩ := readLedAt_next_iff.1 ht
  exact .quiet fun _ => State.pointerOk_of_fbValid (s.fbValid_advance (s.inPixel_iff.1 h))

theorem readBlAt_effect (h : s.ctx.inResp = true) : Ensures (BusEffect s i) (readBlAt s) := by
  intro t ht
  obtain ⟨v, -, rfl⟩ := readBlAt_next_iff.1 ht
  have hl := s.inResp_iff.1 h
  refine .quiet fun _ => State.pointerOk_of_inResp ?_
  show (BitVec.ofNat 8 _).toNat < _
  rw [BitVec.toNat_ofNat]
  exact (Nat.mod_le _ _).trans_lt (Nat.mod_lt _ (by omega))

theorem execReadFix_effect (s : State) : Ensures (BusEffect s i) (execReadFix s) := by
  refine ensures_onCondition fun h t ht => ?_
  have moved : ∀ {a c tr}, BusEffect s i { s with curAddr := a, cursor := c, trace := tr } :=
    .quiet fun hs => absurd h hs.not_readFix
  split at ht
  case h_1 | h_2 | h_3 =>
    obtain ⟨v, -, rfl⟩ := readBlAt_next_iff.1 ht
    exact moved
  case h_4 | h_5 | h_6 =>
    obtain ⟨-, rfl⟩ := readLedAt_next_iff.1 ht
    exact moved

theorem execRegWrite_effect (a : Byte) (data : List Byte) (s : State) :
    Ensures (BusEffect s (.regWrite a data)) (execRegWrite a data s) :=
  ensures_onCondition fun ⟨hled, _⟩ => ensures_fbStore fun hst => ensures_next <|
    have h0 := State.fbValid_zero (s := s) (regClass_led_iff.1 hled)
    .regWrite hst (regWalk_valid s.bpp_bounds.1 s.bpp_bounds.2 data h0.1 h0.2.1 h0.2.2)

/-- `Exec_c` is the meaning of the command's own row. -/
theorem exec_buildCommand (c : Cmd) (args : List Byte) (s : State) : exec (buildCommand c args) s = runCommand c args s := by
  cases c <;> rfl

theorem buildCommand_ne_cmdWrite (c : Cmd) (args : List Byte) (k : Byte) (args' : List Byte) :
    buildCommand c args ≠ .cmdWrite k args' := by
  cases c <;> nofun

/-- The effect of every row but the dispatcher's. -/
theorem exec_effect_of_ne_cmdWrite (hi : ∀ k args, i ≠ .cmdWrite k args) (s : State) :
    Ensures (BusEffect s i) (exec i s) := by
  cases i with
  | txnEmpty => exact ensures_next (.drop _)
  | addrSetCmd => exact ensures_next (.quiet fun _ => State.pointerOk_zero rfl rfl)
  | addrSetLed a =>
    exact ensures_onCondition fun hled => ensures_next <| .quiet fun _ =>
      State.pointerOk_of_fbValid (State.fbValid_zero (regClass_led_iff.1 hled))
  | addrSetClamp a =>
    exact ensures_onCondition fun _ => ensures_next <| .quiet fun hs =>
      State.pointerOk_of_fbValid (State.fbValid_zero ⟨le_rfl, hs.count.1⟩)
  | addrSetBlIdent => exact ensures_next (.quiet Safe.blIdent_pointerOk)
  | addrSetBlReset => exact ensures_next .addrSetBlReset
  | addrSetBlJump => exact ensures_next .addrSetBlJump
  | regWrite a data => exact execRegWrite_effect a data s
  | regWriteDrop a data => exact ensures_onCondition fun _ => ensures_next (.drop _)
  | cmdWrite k args => exact absurd rfl (hi k args)
  | readCmd => exact ensures_onCondition fun _ => ensures_next (.quiet Safe.pointer)
  | readLed => exact ensures_onCondition readLedAt_effect
  | readBl => exact ensures_onCondition readBlAt_effect
  | readFix => exact execReadFix_effect s
  | cmdShow => exact ensures_next .cmdShow
  | cmdClear => exact ensures_fbStore fun hst => ensures_next (.cmdClear hst)
  | cmdClearShow =>
    show Ensures _ (execCmdClearShow s)
    exact ensures_fbStore fun hst => ensures_next (.cmdClearShow hst)
  | cmdCopyAll x => exact ensures_withIndex (.drop _) fun hx => ensures_next (.cmdCopyAll hx)
  | cmdSetLedCount n => exact ensures_next .cmdSetLedCount
  | cmdSetPixelType hi lo => exact ensures_next .cmdSetPixelType
  | cmdSetBusAddr a => exact ensures_next .cmdSetBusAddr
  | cmdSetDefaultFromIndex x =>
    exact ensures_withIndex (.drop _) fun _ => ensures_fbLoad fun _ => ensures_next .cmdSetDefaultFromIndex
  | cmdSetLedColor x r g b w =>
    exact ensures_withIndex (.drop _) fun _ => ensures_fbStore fun hst => ensures_next (.cmdSetLedColor hst)
  | cmdSetAllColor r g b w => exact ensures_fbStore fun hst => ensures_next (.cmdSetAllColor hst)
  | cmdSetDefaultColor r g b w => exact ensures_next .cmdSetDefaultColor
  | cmdPower v =>
    refine ensures_ite (fun hv => ensures_next (.cmdPowerOn hv)) fun hv => ensures_next ?_
    obtain rfl := not_not.1 hv
    exact .cmdPowerOff
  | cmdRainbow =>
    show Ensures _ (execCmdRainbow s)
    exact ensures_fbStore fun hst => ensures_next (.cmdRainbow hst)
  | cmdDeviceReset => exact ensures_next .cmdDeviceReset

theorem execCmdWrite_effect (k : Byte) (args : List Byte) (s : State) :
    Ensures (BusEffect s (.cmdWrite k args)) (execCmdWrite k args s) := by
  unfold execCmdWrite
  split
  · exact ensures_next (.drop _)
  · next c hk =>
    refine ensures_ite (fun _ => ensures_next (.drop _)) fun ha t ht => ?_
    rw [← exec_buildCommand] at ht
    exact .dispatched hk (Nat.le_of_not_lt ha) (exec_effect_of_ne_cmdWrite (buildCommand_ne_cmdWrite c args) s t ht)

/-- What a completed bus operation can do, said once. -/
theorem exec_effect (i : Instr) (s : State) : Ensures (BusEffect s i) (exec i s) := by
  by_cases hi : ∃ k args, i = .cmdWrite k args
  · obtain ⟨k, args, rfl⟩ := hi
    exact execCmdWrite_effect k args s
  · exact exec_effect_of_ne_cmdWrite (fun k args h => hi ⟨k, args, h⟩) s

/-! ### What a bus operation leaves alone -/

/-- The state of CTRL, the record and the watchdog: what BUS does not write (R31). -/
def State.ctrlSide (s : State) : Ctrl × Byte × Byte × Color × BitVec 4 × NvRecord × NvRecord × WdtMode :=
  (s.ctrl, s.fillI, s.fillN, s.fillColor, s.nvK, s.nvImg, s.nv, s.wdtMode)

theorem BusEffect.ctrlSide_eq (h : BusEffect s i t) : t.ctrlSide = s.ctrlSide := by
  induction h with
  | dispatched _ _ _ ih => exact ih
  | _ => rfl

theorem Dfr.get_put_true {d : Dfr} {f g : Flag} (h : d.get g = true) : (d.put f true).get g = true := by simp [h]

/-- BUS clears no flag (R134). -/
theorem BusEffect.keeps_flags (h : BusEffect s i t) : ∀ f, s.dfr.get f = true → t.dfr.get f = true := by
  induction h with
  | dispatched _ _ _ ih => exact ih
  | quiet | regWrite | cmdClear | cmdSetLedColor | cmdSetAllColor | cmdPowerOff => exact fun _ hf => hf
  | _ => exact fun _ => Dfr.get_put_true

/-- Settles O54: no effect of a bus operation reaches CTRL's side, and flags are only set. -/
theorem busWritesNoControlState : Obligations.BusWritesNoControlState := by
  intro i s t h
  have he := exec_effect i s t h
  have side := he.ctrlSide_eq
  simp only [State.ctrlSide, Prod.mk.injEq] at side
  obtain ⟨hctrl, hi, hn, hcolor, hk, himg, hnv, hwdt⟩ := side
  exact ⟨hctrl, hi, hn, hcolor, hk, himg, hnv, hwdt, he.keeps_flags⟩

/-- A payload that stays with the row `CMD_WRITE` names no command, or too few arguments. -/
theorem Instr.not_wf_cmdWrite {c : Ctx} {k : Byte} {args : List Byte} {cmd : Cmd} (hk : c.par.codes.find k = some cmd)
    (ha : cmd.arity ≤ args.length) : ¬ (Instr.cmdWrite k args).wf c = true := by
  simp [Instr.wf, hk, ha]

/-- Settles O55: each effect writes the elements its row names, and a `quiet` one none of them. -/
theorem eachElementHasItsWriters : Obligations.EachElementHasItsWriters := by
  intro i s t hwf h
  cases exec_effect i s t h with
  | quiet => simp
  | dispatched hk ha => exact absurd hwf (Instr.not_wf_cmdWrite hk ha)
  | cmdPowerOn hv => simpa [Dfr.put] using fun _ => hv
  | _ => simp [Dfr.put]

end Sys2Proof.Machine

/-! PROOFS. What a step of CTRL leaves alone (R31, R124). -/

namespace Sys2Proof.Machine

variable {s t : State}

/-- The parameters and what BUS writes beside the frame buffer and the flags (R31). -/
def State.busSide (s : State) : Params × Byte × BitVec 16 × Byte × Color × Byte × Byte × Byte × Byte × Bool :=
  (s.par, s.cfgBusAddr, s.cfgPtype, s.cfgCount, s.cfgDefColor, s.curAddr, s.cursor, s.resp, s.copyIdx, s.pwrOn)

/-- What a CTRL step from `s` to `t` may do to BUS's state: store a pixel in a copy fill, and set `RENDER` where a settle wait ends. -/
structure KeepsBus (s t : State) : Prop where
  side  : t.busSide = s.busSide
  fb    : t.fb = s.fb ∨
    s.ctrl = .copyFill ∧ ∃ st : List Host.Cell, (∀ c ∈ st, c.1 < s.par.fbBytes) ∧ t.fb = Memory.writeAll s.fb st
  flags : ∀ g, t.dfr.get g = true → s.dfr.get g = true ∨ g = .render ∧ s.ctrl = .settleWait

theorem KeepsBus.of_same (hside : t.busSide = s.busSide) (hfb : t.fb = s.fb) (hdfr : t.dfr = s.dfr) : KeepsBus s t :=
  ⟨hside, .inl hfb, fun _ hg => .inl (hdfr ▸ hg)⟩

theorem KeepsBus.of_cleared (f : Flag) (hside : t.busSide = s.busSide) (hfb : t.fb = s.fb)
    (hdfr : t.dfr = s.dfr.put f false) : KeepsBus s t := by
  refine ⟨hside, .inl hfb, fun g hg => .inl ?_⟩
  rw [hdfr, Dfr.get_put] at hg
  split at hg
  · cases hg
  · exact hg

theorem startService_keepsBus {f : Flag} (h : startService f s = .next t) : KeepsBus s t := by
  cases f with
  | render =>
    obtain ⟨-, rfl⟩ := startRender_next_iff.1 h
    exact .of_same rfl rfl rfl
  | copy =>
    obtain ⟨-, rfl⟩ := startCopy_next_iff.1 h
    exact .of_same rfl rfl rfl
  | persist | settle =>
    cases h
    exact .of_same rfl rfl rfl
  | reset =>
    cases h
    exact .of_cleared .reset rfl rfl rfl
  | boot =>
    cases h
    exact .of_cleared .boot rfl rfl rfl

theorem settleDone_keepsBus (hc : s.ctrl = .settleWait) (h : settleDone s = .next t) : KeepsBus s t := by
  cases h
  refine ⟨rfl, .inl rfl, fun g hg => ?_⟩
  by_cases hr : g = .render
  · exact .inr ⟨hr, hc⟩
  · simp [hr] at hg
    exact .inl hg.2

theorem copyFillStep_keepsBus (hc : s.ctrl = .copyFill) (h : copyFillStep s = .next t) : KeepsBus s t := by
  obtain ⟨-, hst, rfl⟩ | ⟨-, rfl⟩ | ⟨-, rfl⟩ := copyFillStep_cases h
  · exact ⟨rfl, .inr ⟨hc, _, hst, rfl⟩, fun _ => .inl⟩
  · exact .of_cleared .copy rfl rfl rfl
  · exact .of_same rfl rfl rfl

theorem persistStep_keepsBus (h : persistStep s = .next t) : KeepsBus s t := by
  obtain ⟨f, v, -, rfl⟩ | ⟨-, rfl⟩ | ⟨-, rfl⟩ := persistStep_cases h
  · exact .of_same rfl rfl rfl
  · exact .of_cleared .persist rfl rfl rfl
  · exact .of_same rfl rfl rfl

theorem ctrlContinue_keepsBus (h : ctrlContinue s = .next t) : KeepsBus s t := by
  unfold ctrlContinue at h
  split at h
  case h_1 | h_6 | h_7 =>
    cases h
    exact .of_same rfl rfl rfl
  case h_2 =>
    cases h
    exact .of_cleared .render rfl rfl rfl
  case h_3 hc => exact copyFillStep_keepsBus hc h
  case h_4 hc => exact settleDone_keepsBus hc h
  case h_5 => exact persistStep_keepsBus h

/-! ### The choice between a start and a step inside a service -/

/-- A CTRL step in `READY` starts a pending service, after the draws its choice took (log 5); every other one continues. -/
def CtrlMove (s t : State) : Prop :=
  (∃ n f, s.ctrl = .ready ∧ s.dfr.get f = true ∧ startService f (s.tookDraws n) = .next t) ∨ ctrlContinue s = .next t

theorem ctrlStep_move (f : Flag) (s : State) : Ensures (CtrlMove s) (ctrlStep f s) := by
  intro t h
  unfold ctrlStep at h
  split at h
  case h_1 hr =>
    split at h
    · next hf => exact .inl ⟨0, f, hr, hf, h⟩
    · exact .inr (by rwa [ctrlContinue, hr])
  all_goals exact .inr h

/-- With an empty schedule CTRL picks a pending flag (R116). -/
theorem quietStep_move (hh : s.ctrl ≠ .halt) : Ensures (CtrlMove s) (quietStep s) := by
  intro t h
  unfold quietStep at h
  split at h
  case h_1 hr =>
    split at h
    · exact .inr (by rwa [ctrlContinue, hr])
    · next f hp => exact .inl ⟨0, f, hr, (s.dfr.mem_pending f).1 (by simp [hp]), h⟩
    · next f rest _ hp =>
      refine .inl ⟨1, _, hr, (s.dfr.mem_pending _).1 ?_, h⟩
      have hlt : Config.serviceChoice s.draws % (rest.length + 1) < (f :: rest).length := Nat.mod_lt _ (Nat.succ_pos _)
      rw [hp, List.getD_eq_getElem _ _ hlt]
      exact List.getElem_mem hlt
  case h_6 hc => exact absurd hc hh
  all_goals exact .inr h

theorem CtrlMove.keepsBus (h : CtrlMove s t) : KeepsBus s t := by
  obtain ⟨n, f, -, -, hs⟩ | hc := h
  · obtain ⟨side, fb, flags⟩ := startService_keepsBus hs
    exact ⟨side, fb, flags⟩
  · exact ctrlContinue_keepsBus hc

/-! ### Whose step the next one is -/

/-- A step that answers a next state is not taken in `JUMPED` nor under parameters outside R5 (logs 8, 9); it is the first entry's or,
without a schedule, the block's own (log 4). -/
theorem step_next_cases (h : step s = .next t) :
    s.ctrl ≠ .jumped ∧ s.par.wf = true ∧ ((s.inputs = [] ∧ quietStep s = .next t) ∨
      ∃ x rest, s.inputs = x :: rest ∧ takeInput x { s with inputs := rest } = .next t) := by
  have hj : s.ctrl ≠ .jumped := fun hj => by simp [step, hj] at h
  have hp : s.par.wf = true := by
    by_contra hp
    simp [step, hj, hp] at h
  refine ⟨hj, hp, ?_⟩
  cases hin : s.inputs with
  | nil => exact .inl ⟨rfl, step_nil hp hj hin ▸ h⟩
  | cons x rest => exact .inr ⟨x, rest, rfl, step_cons hp hj hin ▸ h⟩

/-- Where CTRL moves next, the step is CTRL's, on the rest of the schedule. -/
theorem ctrlMove_of_step (hm : s.ctrlMoves) (h : step s = .next t) : ∃ rest, CtrlMove { s with inputs := rest } t := by
  obtain ⟨-, -, ⟨hnil, hq⟩ | ⟨x, rest, hin, hx⟩⟩ := step_next_cases h
  · obtain ⟨f, rest, hin⟩ | ⟨-, hh⟩ := hm
    · simp [hnil] at hin
    · exact ⟨s.inputs, quietStep_move hh t hq⟩
  · obtain ⟨f, rest', hin'⟩ | ⟨hnil, -⟩ := hm
    · obtain ⟨rfl, rfl⟩ := List.cons.inj (hin.symm.trans hin')
      exact ⟨rest, ctrlStep_move f _ t hx⟩
    · simp [hnil] at hin

/-- Settles O56: neither a start nor a step inside a service reaches BUS's side, but for the pixel of a fill and the `RENDER` of R124. -/
theorem ctrlWritesNoBusState : Obligations.CtrlWritesNoBusState := by
  intro s t h
  have kept : KeepsBus s t := by
    obtain ⟨f, hf⟩ | ⟨hm, hst⟩ := h
    · exact (ctrlStep_move f s t hf).keepsBus
    · obtain ⟨rest, hmove⟩ := ctrlMove_of_step hm hst
      obtain ⟨side, fb, flags⟩ := hmove.keepsBus
      exact ⟨side, fb, flags⟩
  obtain ⟨side, fb, flags⟩ := kept
  simp only [State.busSide, Prod.mk.injEq] at side
  obtain ⟨-, hbus, hptype, hcount, hcolor, hcur, hcursor, hresp, hidx, hpwr⟩ := side
  exact ⟨hbus, hptype, hcount, hcolor, hcur, hcursor, hresp, hidx, hpwr,
    fun hc => fb.resolve_right fun hfill => hc hfill.1, flags⟩

end Sys2Proof.Machine

/-! PROOFS. `Safe` holds after reset and every step keeps it: the buffer and the pointer against BUS, CTRL's side by control state, and
the reset step, which establishes both anew (R15, R23, R25, R28, R29, R30, R126). -/

namespace Sys2Proof.Machine

variable {s t : State} {i : Instr}

/-! ### The parts of `Safe` -/

/-- The count, the frame buffer and `COPY_IDX` fit the parameters (R15, R21, R23). -/
structure BufferOk (p : Params) (count idx : Byte) (fb : Memory) : Prop where
  count : 1 ≤ count.toNat ∧ count.toNat ≤ p.maxLeds
  form  : Memory.wf fb
  range : ∀ c ∈ fb, c.1 < p.fbBytes
  idx   : idx.toNat < p.maxLeds

/-- What each control state asks of the watchdog, of the flag of its service and of the service's own registers (R25, R28, R126,
R134). -/
def State.ctrlOk (s : State) : Prop :=
  match s.ctrl with
  | .ready => s.wdtMode = .normal
  | .renderBusy => s.wdtMode = .normal ∧ s.dfr.render = true
  | .copyFill => s.wdtMode = .normal ∧ s.dfr.copy = true ∧
      s.fillI.toNat ≤ s.fillN.toNat ∧ 1 ≤ s.fillN.toNat ∧ s.fillN.toNat ≤ s.par.maxLeds
  | .settleWait => s.wdtMode = .normal ∧ s.dfr.settle = true
  | .persistWrite => s.wdtMode = .normal ∧ s.dfr.persist = true ∧ s.persistOk
  | .halt => s.wdtMode = .shortArmed
  | .jumped => s.wdtMode = .normal

theorem WdtMode.eq_normal_iff (w : WdtMode) : w = .normal ↔ w ≠ .shortArmed := by cases w <;> decide

theorem Safe.bufferOk (hs : Safe s) : BufferOk s.par s.cfgCount s.copyIdx s.fb :=
  ⟨hs.count, hs.fbForm, hs.fbRange, hs.copyIdx⟩

theorem Safe.ctrlOk (hs : Safe s) : s.ctrlOk := by
  obtain ⟨hrender, hcopy, hsettle, hpersist⟩ := hs.busy
  have normal : s.ctrl ≠ .halt → s.wdtMode = .normal := fun hc => (WdtMode.eq_normal_iff _).2 (mt hs.watchdog.1 hc)
  unfold State.ctrlOk
  split
  case h_1 hc | h_7 hc => exact normal (by simp [hc])
  case h_2 hc => exact ⟨normal (by simp [hc]), hrender hc⟩
  case h_3 hc => exact ⟨normal (by simp [hc]), hcopy hc, hs.fill hc⟩
  case h_4 hc => exact ⟨normal (by simp [hc]), hsettle hc⟩
  case h_5 hc => exact ⟨normal (by simp [hc]), hpersist hc, hs.persist hc⟩
  case h_6 hc => exact hs.watchdog.2 hc

theorem safe_of_parts (hp : s.par.wf = true) (hb : BufferOk s.par s.cfgCount s.copyIdx s.fb) (hptr : s.pointerOk)
    (hc : s.ctrlOk) : Safe s where
  params := hp
  count := hb.count
  pointer := hptr
  fbForm := hb.form
  fbRange := hb.range
  copyIdx := hb.idx
  busy := by unfold State.ctrlOk at hc; split at hc <;> simp_all
  fill h := by simp only [State.ctrlOk, h] at hc; exact hc.2.2
  persist h := by simp only [State.ctrlOk, h] at hc; exact hc.2.2
  watchdog := by unfold State.ctrlOk at hc; split at hc <;> simp_all

/-- `Safe` speaks of the block and the parameters only. -/
theorem Safe.of_block_eq (hs : Safe s) (hb : t.toBlock = s.toBlock) (hp : t.par = s.par) : Safe t := by
  obtain ⟨b, p, x, tr, n⟩ := s
  obtain ⟨b', p', x', tr', n'⟩ := t
  obtain rfl : b' = b := hb
  obtain rfl : p' = p := hp
  exact ⟨hs.params, hs.count, hs.pointer, hs.fbForm, hs.fbRange, hs.copyIdx, hs.busy, hs.fill, hs.persist, hs.watchdog⟩

/-! ### BUS -/

theorem BufferOk.stored {p : Params} {count idx : Byte} {fb : Memory} {st : List Host.Cell} (h : BufferOk p count idx fb)
    (hst : ∀ c ∈ st, c.1 < p.fbBytes) : BufferOk p count idx (Memory.writeAll fb st) :=
  ⟨h.count, Memory.wf_writeAll h.form st, Memory.range_writeAll h.range st hst, h.idx⟩

theorem BusEffect.par_eq (h : BusEffect s i t) : t.par = s.par := by
  induction h with
  | dispatched _ _ _ ih => exact ih
  | _ => rfl

/-- BUS stores inside the buffer, clamps the count and checks the index it keeps. -/
theorem BusEffect.bufferOk (hs : Safe s) (h : BusEffect s i t) : BufferOk t.par t.cfgCount t.copyIdx t.fb := by
  have hb := hs.bufferOk
  obtain ⟨⟨hlo, hhi⟩, -⟩ := Params.wf_bounds hs.params
  induction h with
  | dispatched _ _ _ ih => exact ih
  | regWrite hst _ => exact hb.stored hst
  | cmdClear hst | cmdClearShow hst | cmdSetLedColor hst | cmdSetAllColor hst | cmdRainbow hst => exact hb.stored hst
  | cmdCopyAll hx => exact { hb with idx := hx.trans_le hb.count.2 }
  | cmdSetLedCount => exact { hb with count := clampCount_bounds hlo hhi _ }
  | _ => exact hb

/-- BUS leaves the pointer at a reserved address, at a byte of an LED register, or at register 0 (R29). -/
theorem BusEffect.pointerOk (hs : Safe s) (h : BusEffect s i t) : t.pointerOk := by
  induction h with
  | dispatched _ _ _ ih => exact ih
  | quiet hp => exact hp hs
  | addrSetBlReset => exact hs.blReset_pointerOk
  | addrSetBlJump => exact hs.blJump_pointerOk
  | regWrite _ hp => exact State.pointerOk_of_fbValid hp
  | _ => exact State.pointerOk_zero rfl rfl

theorem BusEffect.ctrlOk (hs : Safe s) (h : BusEffect s i t) : t.ctrlOk := by
  have side := h.ctrlSide_eq
  simp only [State.ctrlSide, Prod.mk.injEq] at side
  obtain ⟨hctrl, hi, hn, -, hk, himg, hnv, hwdt⟩ := side
  have hc := hs.ctrlOk
  have hpar := h.par_eq
  have hflags := h.keeps_flags
  unfold State.ctrlOk State.persistOk at hc ⊢
  rw [hctrl, hi, hn, hk, himg, hnv, hwdt, hpar]
  split at hc
  case h_2 => exact ⟨hc.1, hflags .render hc.2⟩
  case h_3 => exact ⟨hc.1, hflags .copy hc.2.1, hc.2.2⟩
  case h_4 => exact ⟨hc.1, hflags .settle hc.2⟩
  case h_5 => exact ⟨hc.1, hflags .persist hc.2.1, hc.2.2⟩
  all_goals exact hc

theorem BusEffect.safe (hs : Safe s) (h : BusEffect s i t) : Safe t :=
  safe_of_parts (h.par_eq ▸ hs.params) (h.bufferOk hs) (h.pointerOk hs) (h.ctrlOk hs)

theorem takeBusEvent_safe (hs : Safe s) (e : BusEvent) : Ensures Safe (takeBusEvent e s) := by
  intro t h
  unfold takeBusEvent at h
  split at h
  · have seen : Safe (s.emit (.bus e)) := hs.of_block_eq rfl rfl
    exact (exec_effect _ _ t h).safe seen
  · cases h

/-! ### The persist service -/

theorem NvField.offset_inj {f f' : NvField} (h : f.offset = f'.offset) : f = f' := by
  revert h
  cases f <;> cases f' <;> decide

theorem NvField.offset_bounds {f : NvField} (h : f ≠ .magic) : 1 ≤ f.offset ∧ f.offset ≤ 8 := by
  revert h
  cases f <;> decide

/-- The ten writes of R126: byte 0 invalidated, the snapshot's bytes 1 to 8, byte 0 valid. -/
theorem persistWriteAt_cases {p : Params} {img : NvRecord} {k : BitVec 4} {f : NvField} {v : Byte}
    (h : persistWriteAt p img k = some (f, v)) :
    (k.toNat = 0 ∧ f = .magic ∧ v = p.cfgMagic ^^^ 0xFF) ∨ (f ≠ .magic ∧ k.toNat = f.offset ∧ v = img.get f) ∨
      (k.toNat = 9 ∧ f = .magic ∧ v = img.magic) := by
  unfold persistWriteAt at h
  split at h
  case h_1 hk =>
    cases h
    exact .inl ⟨hk, rfl, rfl⟩
  case h_10 hk =>
    cases h
    exact .inr (.inr ⟨hk, rfl, rfl⟩)
  case h_11 => cases h
  all_goals
    next hk =>
    cases h
    exact .inr (.inl ⟨nofun, hk, rfl⟩)

theorem State.persistOk_of_zero (hk : s.nvK = 0) (hm : s.nvImg.magic = s.par.cfgMagic) : s.persistOk := by
  simp [State.persistOk, hk, hm]

/-- One write of the record keeps R126: the first makes byte 0 invalid, the next eight extend the bytes that agree with the snapshot,
and the tenth completes it. -/
theorem State.persistOk_write {f : NvField} {v : Byte} (h : s.persistOk)
    (hw : persistWriteAt s.par s.nvImg s.nvK = some (f, v)) :
    ({ s.nvWrite f v with nvK := s.nvK + 1 } : State).persistOk := by
  obtain ⟨-, himg, hinvalid, hcopied, -⟩ := h
  have hlt : s.nvK.toNat < 10 := by
    by_contra hge
    simp [persistWriteAt_eq_none.2 (Nat.le_of_not_lt hge)] at hw
  have hk1 : (s.nvK + 1).toNat = s.nvK.toNat + 1 := by
    rw [BitVec.toNat_add]
    exact Nat.mod_eq_of_lt (by simp; omega)
  simp only [State.persistOk, State.nv_nvWrite, State.nvImg_nvWrite, State.par_nvWrite, hk1]
  refine ⟨hlt, himg, ?_⟩
  rcases persistWriteAt_cases hw with ⟨hk, rfl, rfl⟩ | ⟨hf, hk, rfl⟩ | ⟨hk, rfl, rfl⟩
  · refine ⟨fun _ _ => rfl, fun f' hf' ho => ?_, by omega⟩
    have := NvField.offset_bounds hf'
    omega
  · have hb := NvField.offset_bounds hf
    refine ⟨fun _ _ => ?_, fun f' hf' ho => ?_, by omega⟩
    · have kept : (s.nv.set f (s.nvImg.get f)).get .magic = s.nv.get .magic := by simp [Ne.symm hf]
      exact kept.trans (hinvalid (by omega) (by omega))
    · rw [NvRecord.get_set]
      split
      · next he => rw [he]
      · next hne =>
        have : f'.offset ≠ f.offset := fun he => hne (NvField.offset_inj he)
        exact hcopied f' hf' (by omega)
  · have copied : ∀ f' : NvField, f' ≠ .magic → (s.nv.set .magic s.nvImg.magic).get f' = s.nvImg.get f' := by
      intro f' hf'
      have := NvField.offset_bounds hf'
      rw [NvRecord.get_set, if_neg hf']
      exact hcopied f' hf' (by omega)
    refine ⟨by omega, fun f' hf' _ => copied f' hf', fun _ => NvRecord.ext_get fun f' => ?_⟩
    by_cases hf' : f' = .magic
    · subst hf'
      rfl
    · exact copied f' hf'

/-! ### CTRL -/

theorem startService_ctrlOk {f : Flag} (hs : Safe s) (hr : s.ctrl = .ready) (hf : s.dfr.get f = true)
    (h : startService f s = .next t) : t.ctrlOk := by
  have hw : s.wdtMode = .normal := by simpa only [State.ctrlOk, hr] using hs.ctrlOk
  cases f with
  | render =>
    obtain ⟨-, rfl⟩ := startRender_next_iff.1 h
    exact ⟨hw, hf⟩
  | copy =>
    obtain ⟨-, rfl⟩ := startCopy_next_iff.1 h
    exact ⟨hw, hf, Nat.zero_le _, hs.count⟩
  | persist =>
    cases h
    exact ⟨hw, hf, State.persistOk_of_zero rfl rfl⟩
  | settle =>
    cases h
    exact ⟨hw, hf⟩
  | reset =>
    cases h
    rfl
  | boot =>
    cases h
    exact hw

theorem copyFillStep_ctrlOk (hc : s.ctrl = .copyFill) (hs : s.ctrlOk) (h : copyFillStep s = .next t) : t.ctrlOk := by
  obtain ⟨hlt, -, rfl⟩ | ⟨-, rfl⟩ | ⟨-, rfl⟩ := copyFillStep_cases h
  · simp only [State.ctrlOk, hc, State.ctrl_withFb] at hs ⊢
    obtain ⟨hw, hcopy, -, hn⟩ := hs
    have hle : (s.fillI + 1).toNat ≤ s.fillN.toNat := by
      rw [BitVec.toNat_add]
      exact (Nat.mod_le _ _).trans hlt
    exact ⟨hw, hcopy, hle, hn⟩
  · simp only [State.ctrlOk, hc] at hs
    exact hs.1
  · exact hs

theorem persistStep_ctrlOk (hc : s.ctrl = .persistWrite) (hs : s.ctrlOk) (h : persistStep s = .next t) : t.ctrlOk := by
  obtain ⟨f, v, hw, rfl⟩ | ⟨-, rfl⟩ | ⟨-, rfl⟩ := persistStep_cases h
  · simp only [State.ctrlOk, hc, State.ctrl_nvWrite] at hs ⊢
    obtain ⟨hwdt, hpersist, hok⟩ := hs
    exact ⟨hwdt, hpersist, State.persistOk_write hok hw⟩
  · rfl
  · exact hs

theorem ctrlContinue_ctrlOk (hs : s.ctrlOk) (h : ctrlContinue s = .next t) : t.ctrlOk := by
  unfold ctrlContinue at h
  split at h
  case h_1 | h_6 | h_7 =>
    cases h
    exact hs
  case h_2 hc | h_4 hc =>
    cases h
    simp only [State.ctrlOk, hc] at hs
    exact hs.1
  case h_3 hc => exact copyFillStep_ctrlOk hc hs h
  case h_5 hc => exact persistStep_ctrlOk hc hs h

theorem KeepsBus.bufferOk (h : KeepsBus s t) (hs : Safe s) : BufferOk t.par t.cfgCount t.copyIdx t.fb := by
  obtain ⟨side, fb, -⟩ := h
  simp only [State.busSide, Prod.mk.injEq] at side
  obtain ⟨hpar, -, -, hcount, -, -, -, -, hidx, -⟩ := side
  rw [hpar, hcount, hidx]
  obtain hsame | ⟨-, st, hst, hstored⟩ := fb
  · exact hsame ▸ hs.bufferOk
  · exact hstored ▸ hs.bufferOk.stored hst

theorem KeepsBus.pointerOk (h : KeepsBus s t) (hs : Safe s) : t.pointerOk := by
  have side := h.side
  simp only [State.busSide, Prod.mk.injEq] at side
  obtain ⟨hpar, -, hptype, hcount, -, hcur, hcursor, -, -, -⟩ := side
  have hptr := hs.pointer
  unfold State.pointerOk State.classOf State.bpp State.fmt at hptr ⊢
  rwa [hpar, hptype, hcount, hcur, hcursor]

theorem CtrlMove.safe (hs : Safe s) (h : CtrlMove s t) : Safe t := by
  have kept := h.keepsBus
  have hpar : t.par = s.par := congrArg Prod.fst kept.side
  refine safe_of_parts (hpar ▸ hs.params) (kept.bufferOk hs) (kept.pointerOk hs) ?_
  obtain ⟨n, f, hr, hf, hstart⟩ | hcont := h
  · have drawn : Safe (s.tookDraws n) := hs.of_block_eq rfl rfl
    exact startService_ctrlOk drawn hr hf hstart
  · exact ctrlContinue_ctrlOk hs.ctrlOk hcont

/-! ### The reset step -/

/-- The loaded count is one the buffer holds, and not 0 (R157). -/
theorem State.cfgCount_loadConfig_bounds (hp : s.par.wf = true) :
    1 ≤ s.loadConfig.cfgCount.toNat ∧ s.loadConfig.cfgCount.toNat ≤ s.loadConfig.par.maxLeds := by
  obtain ⟨⟨hlo, hhi⟩, -, -, hdef, -⟩ := Params.wf_bounds hp
  rw [State.par_loadConfig]
  unfold State.loadConfig
  split
  · exact clampCount_bounds hlo hhi _
  · exact hdef

/-- The reset values are safe whatever stores inside the buffer follow them (R158, R159). -/
theorem clearVolatile_safe {st : List Host.Cell} (hp : s.par.wf = true)
    (hc : 1 ≤ s.cfgCount.toNat ∧ s.cfgCount.toNat ≤ s.par.maxLeds) (hst : ∀ c ∈ st, c.1 < s.par.fbBytes) :
    Safe (s.clearVolatile.withFb (Memory.writeAll [] st)) := by
  have empty : BufferOk s.par s.cfgCount 0 [] := ⟨hc, ⟨.nil, nofun⟩, nofun, hc.1.trans hc.2⟩
  exact safe_of_parts hp (empty.stored hst) (State.pointerOk_zero rfl rfl) rfl

/-- The reset step makes a safe state of any block whose parameters meet R5. -/
theorem resetStep_safe (hp : s.par.wf = true) : Ensures Safe (resetStep s) := by
  refine ensures_fbStore fun hst => ensures_next (clearVolatile_safe ?_ (State.cfgCount_loadConfig_bounds ?_) hst)
  · rwa [State.par_loadConfig]
  · exact hp

/-- Settles O60: a blank record has no magic byte, so the defaults are loaded, and their black fill stores only zeros. -/
theorem resetStateIsTheBootOfABlankRecord : Obligations.ResetStateIsTheBootOfABlankRecord := by
  intro s hpar hnv
  have hp : s.par.wf = true := by rw [hpar]; decide
  have hmagic : s.nv.magic ≠ s.par.cfgMagic := by rw [hpar, hnv]; decide
  refine ⟨_, resetStep_of_wf hp, ?_⟩
  have loaded := State.loadConfig_of_not_magic (s := { s with trace := s.trace ++ Event.reset :: s.nvReads }) hmagic
  rw [loaded]
  simp only [State.clearVolatile, State.withFb, State.fmt, hpar, hnv]
  rfl

/-- Settles O10: `State.reset` is the block of a reset step, which is safe. -/
theorem resetStateIsSafe : Obligations.ResetStateIsSafe := by
  obtain ⟨t, ht, hblock⟩ := resetStateIsTheBootOfABlankRecord State.reset rfl rfl
  have hs : Safe t := resetStep_safe (by decide) t ht
  exact hs.of_block_eq hblock.symm (resetStep_extends _ t ht).par.symm

/-! ### The step -/

theorem takeInput_safe (hs : Safe s) (x : Input) : Ensures Safe (takeInput x s) := by
  intro t h
  cases x with
  | bus e => exact takeBusEvent_safe hs e t h
  | ctrl f => exact (ctrlStep_move f s t h).safe hs
  | reset => exact resetStep_safe hs.params t h

theorem quietStep_safe (hs : Safe s) : Ensures Safe (quietStep s) := by
  intro t h
  by_cases hc : s.ctrl = .halt
  · rw [quietStep, hc] at h
    exact resetStep_safe hs.params t h
  · exact (quietStep_move hc t h).safe hs

/-- Settles O11: `Safe` is kept by what BUS can do, by CTRL's moves and by the reset step, whoever is next. -/
theorem stepKeepsSafe : Obligations.StepKeepsSafe := by
  intro s t hs h
  obtain ⟨-, -, ⟨-, hq⟩ | ⟨x, rest, -, hx⟩⟩ := step_next_cases h
  · exact quietStep_safe hs t hq
  · have taken : Safe { s with inputs := rest } := hs.of_block_eq rfl rfl
    exact takeInput_safe taken x t hx

end Sys2Proof.Machine

/-! PROOFS. The register address classes, the pointer advance and the register walk in closed form, the default pixel format, and the
pixel accessors byte by byte (R34, R37, R39, R41 to R43). -/

namespace Sys2Proof

variable {p : Params} {count a : Byte}

/-! ### Register address classes -/

theorem regClass_blIdent_iff (hp : p.wf = true) (hc : count.toNat ≤ p.maxLeds) :
    regClass p count a = .blIdent ↔ a = p.blAddrIdent :=
  ⟨eq_of_regClass_blIdent, fun h => h ▸ regClass_blIdent hp hc⟩

theorem regClass_blReset_iff (hp : p.wf = true) (hc : count.toNat ≤ p.maxLeds) :
    regClass p count a = .blReset ↔ a = p.blAddrReset :=
  ⟨eq_of_regClass_blReset, fun h => h ▸ regClass_blReset hp hc⟩

theorem regClass_blJump_iff (hp : p.wf = true) (hc : count.toNat ≤ p.maxLeds) :
    regClass p count a = .blJump ↔ a = p.blAddrJump :=
  ⟨eq_of_regClass_blJump, fun h => h ▸ regClass_blJump hp hc⟩

theorem RegClass.eq_invalid_iff (k : RegClass) :
    k = .invalid ↔ k ≠ .cmd ∧ k ≠ .led ∧ k ≠ .blIdent ∧ k ≠ .blReset ∧ k ≠ .blJump := by
  cases k <;> decide

/-- An address is neither register 0 nor an LED register iff it is above the count. -/
theorem count_lt_iff : count.toNat < a.toNat ↔ a ≠ 0 ∧ ¬ (1 ≤ a.toNat ∧ a.toNat ≤ count.toNat) := by
  have hzero : a = 0 ↔ a.toNat = 0 := BitVec.toNat_inj.symm
  rw [ne_eq, hzero]
  omega

theorem regClass_invalid_iff (hp : p.wf = true) (hc : count.toNat ≤ p.maxLeds) :
    regClass p count a = .invalid ↔
      count.toNat < a.toNat ∧ a ≠ p.blAddrIdent ∧ a ≠ p.blAddrReset ∧ a ≠ p.blAddrJump := by
  rw [RegClass.eq_invalid_iff, count_lt_iff, and_assoc]
  simp only [ne_eq, regClass_cmd_iff, regClass_led_iff, regClass_blIdent_iff hp hc, regClass_blReset_iff hp hc,
    regClass_blJump_iff hp hc]

/-- Settles O6: a reserved address lies above the count and differs from the other two, so no earlier test takes it. -/
theorem registerClassesAreDisjoint : Obligations.RegisterClassesAreDisjoint := fun _ _ _ hp hc =>
  ⟨regClass_cmd_iff, regClass_led_iff, regClass_blIdent_iff hp hc, regClass_blReset_iff hp hc, regClass_blJump_iff hp hc,
    regClass_invalid_iff hp hc⟩

/-! ### The pixel format -/

theorem Bpp.toNat_eq_four_iff (b : Bpp) : b.toNat = 4 ↔ b = .four := by cases b <;> decide

/-- A two-bit field of a pixel type, as a number. -/
theorem toNat_extractLsb'_two (t : BitVec 16) (k : Nat) : (t.extractLsb' k 2).toNat = t.toNat / 2 ^ k % 4 := by
  rw [BitVec.extractLsb'_toNat, Nat.shiftRight_eq_div_pow]

/-- A two-bit field inside the low byte is a function of the low byte. -/
theorem extractLsb'_two_congr {t u : BitVec 16} (h : u.toNat % 256 = t.toNat % 256) {k : Nat} (hk : 2 ^ k * 4 ∣ 256) :
    u.extractLsb' k 2 = t.extractLsb' k 2 := by
  have field : ∀ x : Nat, x / 2 ^ k % 4 = x % 256 % (2 ^ k * 4) / 2 ^ k := fun x => by
    rw [Nat.mod_mod_of_dvd x hk, Nat.mod_mul_right_div_self]
  refine BitVec.eq_of_toNat_eq ?_
  rw [toNat_extractLsb'_two, toNat_extractLsb'_two, field, field, h]

theorem neoPixelDecode_congr {t u : BitVec 16} (h : u.toNat % 256 = t.toNat % 256) : neoPixelDecode u = neoPixelDecode t := by
  unfold neoPixelDecode
  rw [extractLsb'_two_congr h (k := 6) (by decide), extractLsb'_two_congr h (k := 4) (by decide),
    extractLsb'_two_congr h (k := 2) (by decide), extractLsb'_two_congr h (k := 0) (by decide)]

theorem bpp_neoPixelDecode (t : BitVec 16) :
    (neoPixelDecode t).bpp.toNat = if t.toNat / 64 % 4 = t.toNat / 16 % 4 then 3 else 4 := by
  have same : t.extractLsb' 6 2 = t.extractLsb' 4 2 ↔ t.toNat / 64 % 4 = t.toNat / 16 % 4 := by
    simp only [← BitVec.toNat_inj, toNat_extractLsb'_two, Nat.reducePow]
  simp only [neoPixelDecode, same]
  split <;> rfl

/-- Settles O40: each offset is a two-bit field of the low byte, and `BPP` compares two of them. -/
theorem defaultPixelFormat : Obligations.DefaultPixelFormat := fun t =>
  ⟨toNat_extractLsb'_two t 6, toNat_extractLsb'_two t 4, toNat_extractLsb'_two t 2,
    (toNat_extractLsb'_two t 0).trans (by rw [pow_zero, Nat.div_one]), bpp_neoPixelDecode t, fun _ => neoPixelDecode_congr⟩

end Sys2Proof

namespace Sys2Proof.Machine

variable {count : Byte} {n : Nat} {a c : Byte}

/-! ### The pointer advance -/

theorem advance_inside (h : c.toNat + 1 < n) : advance count n a c = (a, c + 1) := if_pos h

theorem advance_wraps (h : n ≤ c.toNat + 1) (ha : a = count) : advance count n a c = (1, 0) :=
  (if_neg (Nat.not_lt.2 h)).trans (if_pos ha)

theorem advance_carries (h : n ≤ c.toNat + 1) (ha : a ≠ count) : advance count n a c = (a + 1, 0) :=
  (if_neg (Nat.not_lt.2 h)).trans (if_neg ha)

/-- Settles O19: the three branches of `advance`, and the range its result keeps. -/
theorem advanceStaysInTheWindow : Obligations.AdvanceStaysInTheWindow := fun _ b _ _ ha hac hc =>
  ⟨advance_inside, advance_wraps, advance_carries, advance_valid b.bounds.1 b.bounds.2 ha hac hc⟩

/-! ### The register walk -/

/-- The stores of a register walk from any valid pointer: the `j`-th byte goes `j` indices further, modulo the window (R39, R84). -/
theorem regWalk_stores (hn : 3 ≤ n) (hn' : n ≤ 4) (ds : List Byte)
    (ha : 1 ≤ a.toNat) (hac : a.toNat ≤ count.toNat) (hc : c.toNat < n) :
    (regWalk count n a c ds).1 = ds.zipIdx.map fun dj => ((fbIndex n a c + dj.2) % (count.toNat * n), dj.1) := by
  induction ds generalizing a c with
  | nil => rfl
  | cons d ds ih =>
    obtain ⟨ha', hac', hc'⟩ := advance_valid hn hn' ha hac hc
    have first : (fbIndex n a c + 0) % (count.toNat * n) = fbIndex n a c := Nat.mod_eq_of_lt (fbIndex_lt ha hac hc)
    have later : ∀ j, (fbIndex n (advance count n a c).1 (advance count n a c).2 + j) % (count.toNat * n) =
        (fbIndex n a c + (j + 1)) % (count.toNat * n) := fun j => by
      rw [fbIndex_advance hn hn' ha hac hc, Nat.mod_add_mod, Nat.add_assoc, Nat.add_comm 1 j]
    simp only [regWalk, ih ha' hac' hc', later, List.zipIdx_cons, List.map_cons, first, List.zipIdx_succ, List.map_map,
      Function.comp_def]

/-- The pointer a register walk leaves stands as many indices further as bytes were written, modulo the window (R39, R84). -/
theorem fbIndex_regWalk (hn : 3 ≤ n) (hn' : n ≤ 4) (ds : List Byte)
    (ha : 1 ≤ a.toNat) (hac : a.toNat ≤ count.toNat) (hc : c.toNat < n) :
    fbIndex n (regWalk count n a c ds).2.1 (regWalk count n a c ds).2.2 =
      (fbIndex n a c + ds.length) % (count.toNat * n) := by
  induction ds generalizing a c with
  | nil => exact (Nat.mod_eq_of_lt (fbIndex_lt ha hac hc)).symm
  | cons d ds ih =>
    obtain ⟨ha', hac', hc'⟩ := advance_valid hn hn' ha hac hc
    simp only [regWalk]
    rw [ih ha' hac' hc', fbIndex_advance hn hn' ha hac hc, Nat.mod_add_mod, List.length_cons, Nat.add_assoc,
      Nat.add_comm 1]

/-- Settles O18: the walk from the first byte of register `A`, whose index is `(A - 1) * BPP`. -/
theorem registerWalkWrapsInsideTheWindow : Obligations.RegisterWalkWrapsInsideTheWindow := by
  intro count b a data ha hac
  obtain ⟨hb, hb'⟩ := b.bounds
  have hc : (0 : Byte).toNat < b.toNat := Nat.lt_of_lt_of_le (by decide) hb
  exact ⟨regWalk_stores hb hb' data ha hac hc, fbIndex_regWalk hb hb' data ha hac hc, regWalk_valid hb hb' data ha hac hc⟩

/-! ### Pixel writes -/

variable {m : Memory} {f : PixelFormat} {q : Nat} {col : Color}

/-- A channel stores at its own offset; an offset outside the pixel names no byte of it. -/
theorem lastStore_channelStore {base j : Nat} {off : BitVec 2} {v : Byte} (hj : j < n) :
    lastStore (channelStore n base off v) (base + j) = if off.toNat = j then some v else none := by
  unfold channelStore
  split
  · simp [lastStore, eq_comm]
  · exact (if_neg (by omega)).symm

/-- The last store of a pixel write to byte `j` of its pixel: the later channel wins, in the order R, G, B, W (R42). -/
theorem lastStore_pixelStores {j : Nat} (hj : j < f.bpp.toNat) :
    lastStore (pixelStores f q col) (q * f.bpp.toNat + j) =
      if f.bpp = .four ∧ f.offW.toNat = j then some col.w
      else if f.offB.toNat = j then some col.b
      else if f.offG.toNat = j then some col.g
      else if f.offR.toNat = j then some col.r
      else none := by
  have white : lastStore (if f.bpp.toNat = 4 then channelStore f.bpp.toNat (q * f.bpp.toNat) f.offW col.w else [])
      (q * f.bpp.toNat + j) = if f.bpp = .four ∧ f.offW.toNat = j then some col.w else none := by
    simp only [Bpp.toNat_eq_four_iff, ite_and]
    split
    · exact lastStore_channelStore hj
    · rfl
  simp only [pixelStores, lastStore_append, lastStore_channelStore hj, white]
  split_ifs <;> rfl

theorem read_pixelWrite (hm : Memory.wf m) {j : Nat} (hj : j < f.bpp.toNat) :
    Memory.read (Memory.writeAll m (pixelStores f q col)) (q * f.bpp.toNat + j) =
      if f.bpp = .four ∧ f.offW.toNat = j then col.w
      else if f.offB.toNat = j then col.b
      else if f.offG.toNat = j then col.g
      else if f.offR.toNat = j then col.r
      else Memory.read m (q * f.bpp.toNat + j) := by
  rw [Memory.read_writeAll hm, storedByte, lastStore_pixelStores hj]
  split_ifs <;> rfl

theorem read_pixelWrite_outside (hm : Memory.wf m) {i : Nat}
    (hi : i < q * f.bpp.toNat ∨ q * f.bpp.toNat + f.bpp.toNat ≤ i) :
    Memory.read (Memory.writeAll m (pixelStores f q col)) i = Memory.read m i := by
  rw [Memory.read_writeAll hm]
  refine storedByte_of_not_mem fun x hx => ?_
  have := mem_pixelStores hx
  omega

/-- Settles O41: the last of the four channel stores to a byte decides it, and none lies outside the pixel. -/
theorem pixelWriteByteByByte : Obligations.PixelWriteByteByByte := fun _ _ _ _ hm =>
  ⟨fun _ => read_pixelWrite hm, fun _ => read_pixelWrite_outside hm⟩

/-! ### Pixel reads -/

theorem pixelRead_eq (f : PixelFormat) (m : Memory) (q : Nat) :
    pixelRead f m q =
      { r := channelRead m f.bpp.toNat (q * f.bpp.toNat) f.offR
        g := channelRead m f.bpp.toNat (q * f.bpp.toNat) f.offG
        b := channelRead m f.bpp.toNat (q * f.bpp.toNat) f.offB
        w := if f.bpp = .four then channelRead m f.bpp.toNat (q * f.bpp.toNat) f.offW else 0 } := by
  simp only [pixelRead, Bpp.toNat_eq_four_iff]

/-- A channel read after a pixel write finds the last channel stored at that offset (R42, R43). -/
theorem channelRead_pixelWrite (hm : Memory.wf m) {off : BitVec 2} (hoff : off.toNat < f.bpp.toNat) :
    channelRead (Memory.writeAll m (pixelStores f q col)) f.bpp.toNat (q * f.bpp.toNat) off =
      if f.bpp = .four ∧ f.offW = off then col.w
      else if f.offB = off then col.b
      else if f.offG = off then col.g
      else if f.offR = off then col.r
      else Memory.read m (q * f.bpp.toNat + off.toNat) := by
  rw [channelRead, if_pos hoff, read_pixelWrite hm hoff]
  simp only [BitVec.toNat_inj]

/-- When the offsets are a permutation no channel's byte is overwritten by a later one (R42, R43). -/
theorem pixelRead_pixelWrite (hm : Memory.wf m) (hf : offsetsPermute f) :
    pixelRead f (Memory.writeAll m (pixelStores f q col)) q = { col with w := if f.bpp = .four then col.w else 0 } := by
  obtain ⟨hrg, hrb, hgb, hr, hg, hb, hw⟩ := hf
  rw [pixelRead_eq, channelRead_pixelWrite hm hr, channelRead_pixelWrite hm hg, channelRead_pixelWrite hm hb]
  by_cases h4 : f.bpp = .four
  · obtain ⟨hwr, hwg, hwb⟩ := hw h4
    have hoff : f.offW.toNat < f.bpp.toNat := by
      rw [h4]
      exact f.offW.isLt
    rw [channelRead_pixelWrite hm hoff]
    simp [h4, hwr, hwg, hwb, hrg.symm, hrb.symm, hgb.symm]
  · simp [h4, hrg.symm, hrb.symm, hgb.symm]

/-- Settles O42: each channel is one `channelRead`, and under a permutation it finds its own channel's byte. -/
theorem pixelReadAfterWrite : Obligations.PixelReadAfterWrite := fun m f q _ =>
  ⟨by rw [pixelRead_eq]; simp only [channelRead, ite_and], pixelRead_pixelWrite⟩

end Sys2Proof.Machine

/-! PROOFS. The decoder and the encoder (R60 to R71): the format of what is decoded, the round trip of every row, surplus argument
bytes, words written out, and the refusal of an operation outside its row's condition. -/

namespace Sys2Proof

variable {c : Ctx} {a k : Byte} {T args : List Byte} {i : Instr} {m : CmdCodes} {cmd : Cmd}

/-! ### The format of a decoded operation -/

theorem buildCommand_format (cmd : Cmd) (args : List Byte) : (buildCommand cmd args).format = .txnCmd := by
  cases cmd <;> rfl

theorem decodeCommand_format (m : CmdCodes) (k : Byte) (args : List Byte) : (decodeCommand m k args).format = .txnCmd := by
  unfold decodeCommand
  split
  · rfl
  · split
    · rfl
    · exact buildCommand_format _ _

theorem decodeWrite_format (c : Ctx) (T : List Byte) : (decodeWrite c T).format = (BusEvent.write T).format := by
  match T with
  | [] => rfl
  | [a] =>
    simp only [decodeWrite]
    split <;> rfl
  | a :: d :: ds =>
    simp only [decodeWrite, BusEvent.format]
    split_ifs
    · exact decodeCommand_format _ _ _
    · rfl
    · rfl

theorem decodeRead_format (c : Ctx) : (decodeRead c).format = .txnRead := by
  unfold decodeRead
  split
  case h_1 | h_6 => rfl
  all_goals split <;> rfl

theorem decode_format {e : BusEvent} (h : decode c e = .ok i) : i.format = e.format := by
  cases e with
  | write T =>
    simp only [decode] at h
    split at h
    · exact Except.ok.inj h ▸ decodeWrite_format c T
    · cases h
  | read => exact Except.ok.inj h ▸ decodeRead_format c

/-- Settles O4: the decoder's result is well-formed whatever the event's bytes are, and its format is the event's. -/
theorem everyDeliverableEventDecodes : Obligations.EveryDeliverableEventDecodes := by
  intro c e _ he
  obtain ⟨i, hi, hwf⟩ := decode_wf he
  exact ⟨i, hi, hwf, decode_format hi⟩

/-! ### Command payloads -/

theorem decode_write (hT : T.length ≤ c.par.maxTxnLen) (h : decodeWrite c T = i) : decode c (.write T) = .ok i :=
  (if_pos hT).trans (congrArg _ h)

theorem decodeWrite_payload (c : Ctx) (k : Byte) (args : List Byte) :
    decodeWrite c (0 :: k :: args) = decodeCommand c.par.codes k args := by
  rw [decodeWrite, if_pos rfl]

theorem decode_payload (hl : 2 + args.length ≤ c.par.maxTxnLen) (h : decodeCommand c.par.codes k args = i) :
    decode c (.write (0 :: k :: args)) = .ok i :=
  decode_write (by simp only [List.length_cons]; omega) ((decodeWrite_payload c k args).trans h)

theorem decodeCommand_eq_buildCommand (hk : m.find k = some cmd) (ha : cmd.arity ≤ args.length) :
    decodeCommand m k args = buildCommand cmd args := by
  simp only [decodeCommand, hk, if_neg (Nat.not_lt.2 ha)]

theorem decodeCommand_eq_cmdWrite (h : ∀ cmd, m.find k = some cmd → args.length < cmd.arity) :
    decodeCommand m k args = .cmdWrite k args := by
  unfold decodeCommand
  split
  · rfl
  · next cmd hk => exact if_pos (h cmd hk)

theorem Instr.wf_cmdWrite_iff : (Instr.cmdWrite k args).wf c = true ↔
    (∀ cmd, c.par.codes.find k = some cmd → args.length < cmd.arity) ∧ 2 + args.length ≤ c.par.maxTxnLen := by
  cases hk : c.par.codes.find k <;> simp [Instr.wf, hk]

/-- A payload with a command's code and enough argument bytes is that command (R65, R93). -/
theorem decode_command_of_arity_le (hp : c.par.wf = true) (ha : cmd.arity ≤ args.length)
    (hl : 2 + args.length ≤ c.par.maxTxnLen) :
    decode c (.write (0 :: c.par.codes.code cmd :: args)) = .ok (buildCommand cmd args) :=
  decode_payload hl (decodeCommand_eq_buildCommand (CmdCodes.find_code (Params.wf_codes hp) cmd) ha)

theorem Cmd.arity_le (cmd : Cmd) : cmd.arity ≤ 5 := by cases cmd <;> decide

/-- A command with exactly its arguments has at most 7 bytes, which every engine delivers (R5, R65). -/
theorem decode_command (hp : c.par.wf = true) (cmd : Cmd) (ha : args.length = cmd.arity) :
    decode c (.write (0 :: c.par.codes.code cmd :: args)) = .ok (buildCommand cmd args) := by
  obtain ⟨-, -, -, -, hmax⟩ := Params.wf_bounds hp
  have := cmd.arity_le
  exact decode_command_of_arity_le hp ha.ge (by omega)

theorem argByte_append {j : Nat} (h : j < args.length) (extra : List Byte) :
    argByte (args ++ extra) j = argByte args j :=
  List.getD_append _ _ _ _ h

/-- Argument assembly reads only the first `arity` bytes (R71). -/
theorem buildCommand_append (ha : args.length = cmd.arity) (extra : List Byte) :
    buildCommand cmd (args ++ extra) = buildCommand cmd args := by
  cases cmd <;> simp [buildCommand, argByte_append, ha, Cmd.arity]

/-- Settles O5: both transactions carry the command's code and enough bytes, and the assembly reads the same ones of each. -/
theorem surplusArgumentsAreIgnored : Obligations.SurplusArgumentsAreIgnored := by
  intro c cmd args extra hp ha hl
  refine ⟨?_, decode_command hp cmd ha⟩
  rw [← buildCommand_append ha extra]
  exact decode_command_of_arity_le hp (by rw [List.length_append]; omega) (by rw [List.length_append]; omega)

/-! ### Address-only and register writes -/

theorem decode_address (hmax : 7 ≤ c.par.maxTxnLen) (h : decodeWrite c [a] = i) : decode c (.write [a]) = .ok i :=
  decode_write (by rw [List.length_singleton]; omega) h

theorem decodeWrite_eq_addrSetCmd (c : Ctx) : decodeWrite c [0] = .addrSetCmd := by
  simp only [decodeWrite, regClass_cmd_iff.2]

theorem decodeWrite_eq_addrSetLed (h : regClass c.par c.count a = .led) : decodeWrite c [a] = .addrSetLed a := by
  simp only [decodeWrite, h]

theorem regClass_led_ne_zero (h : regClass c.par c.count a = .led) : a ≠ 0 := fun h0 =>
  absurd (h.symm.trans (regClass_cmd_iff.2 h0)) (by decide)

theorem decodeWrite_eq_regWrite {data : List Byte} (hled : regClass c.par c.count a = .led) (hd : data ≠ []) :
    decodeWrite c (a :: data) = .regWrite a data := by
  obtain ⟨d, ds, rfl⟩ := List.exists_cons_of_ne_nil hd
  exact (if_neg (regClass_led_ne_zero hled)).trans (if_pos hled)

theorem decodeWrite_eq_regWriteDrop {data : List Byte} (h0 : a ≠ 0) (hled : regClass c.par c.count a ≠ .led)
    (hd : data ≠ []) :
    decodeWrite c (a :: data) = .regWriteDrop a data := by
  obtain ⟨d, ds, rfl⟩ := List.exists_cons_of_ne_nil hd
  exact (if_neg h0).trans (if_neg hled)

/-! ### Reads -/

theorem decodeRead_eq_readCmd (h : c.curAddr = 0) : decodeRead c = .readCmd := by
  simp only [decodeRead, regClass_cmd_iff.2 h]

theorem decodeRead_eq_readLed (h : c.inPixel = true) : decodeRead c = .readLed := by
  simp only [Ctx.inPixel, Bool.and_eq_true, decide_eq_true_eq] at h
  obtain ⟨hled, hcur⟩ := h
  simp only [decodeRead, hled, if_pos hcur]

/-- Only a reserved address has a response sequence, so a pointer inside one stands at a reserved address. -/
theorem decodeRead_eq_readBl (h : c.inResp = true) : decodeRead c = .readBl := by
  replace h := of_decide_eq_true h
  unfold decodeRead
  split
  case h_1 hk | h_2 hk | h_6 hk => simp [hk, blResp] at h
  all_goals
    next hk =>
    rw [hk] at h
    exact if_pos h

theorem decodeRead_eq_readFix (h : c.curAddr ≠ 0 ∧ c.inPixel = false ∧ c.inResp = false) : decodeRead c = .readFix := by
  obtain ⟨h0, hpix, hresp⟩ := h
  replace hresp := of_decide_eq_false hresp
  unfold decodeRead
  split
  case h_1 hk => exact absurd (regClass_cmd_iff.1 hk) h0
  case h_2 hk => exact if_neg (by simpa [Ctx.inPixel, hk] using hpix)
  case h_6 => rfl
  all_goals
    next hk =>
    rw [hk] at hresp
    exact if_neg hresp

/-! ### The round trip -/

/-- Settles O3, row by row: an address by its class, a command by its code, a read by the pointer. -/
theorem decodeOfEncodeGivesTheOperation : Obligations.DecodeOfEncodeGivesTheOperation := by
  intro c i hp hc hwf
  obtain ⟨-, -, -, -, hmax⟩ := Params.wf_bounds hp
  cases i with
  | txnEmpty => exact decode_write (Nat.zero_le _) rfl
  | addrSetCmd => exact decode_address hmax (decodeWrite_eq_addrSetCmd c)
  | addrSetLed a => exact decode_address hmax (decodeWrite_eq_addrSetLed (of_decide_eq_true hwf))
  | addrSetClamp a => exact decode_address hmax (by simp only [decodeWrite, of_decide_eq_true hwf])
  | addrSetBlIdent => exact decode_address hmax (by simp only [decodeWrite, regClass_blIdent hp hc])
  | addrSetBlReset => exact decode_address hmax (by simp only [decodeWrite, regClass_blReset hp hc])
  | addrSetBlJump => exact decode_address hmax (by simp only [decodeWrite, regClass_blJump hp hc])
  | regWrite a data =>
    obtain ⟨hled, hd, hl⟩ := Instr.wf_regWrite_iff.1 hwf
    exact decode_write (by rwa [List.length_cons, Nat.add_comm]) (decodeWrite_eq_regWrite hled hd)
  | regWriteDrop a data =>
    obtain ⟨h0, hled, hd, hl⟩ := Instr.wf_regWriteDrop_iff.1 hwf
    exact decode_write (by rwa [List.length_cons, Nat.add_comm]) (decodeWrite_eq_regWriteDrop h0 hled hd)
  | cmdWrite k args =>
    obtain ⟨hk, hl⟩ := Instr.wf_cmdWrite_iff.1 hwf
    exact decode_payload hl (decodeCommand_eq_cmdWrite hk)
  | readCmd => exact congrArg _ (decodeRead_eq_readCmd (of_decide_eq_true hwf))
  | readLed => exact congrArg _ (decodeRead_eq_readLed hwf)
  | readBl => exact congrArg _ (decodeRead_eq_readBl hwf)
  | readFix => exact congrArg _ (decodeRead_eq_readFix (Instr.wf_readFix_iff.1 hwf))
  | cmdShow => exact decode_command hp .cShow rfl
  | cmdClear => exact decode_command hp .cClear rfl
  | cmdClearShow => exact decode_command hp .cClearShow rfl
  | cmdCopyAll _ => exact decode_command hp .cCopyAll rfl
  | cmdSetLedCount _ => exact decode_command hp .cSetLedCount rfl
  | cmdSetPixelType _ _ => exact decode_command hp .cSetPixelType rfl
  | cmdSetBusAddr _ => exact decode_command hp .cSetBusAddr rfl
  | cmdSetDefaultFromIndex _ => exact decode_command hp .cSetDefaultFromIndex rfl
  | cmdSetLedColor _ _ _ _ _ => exact decode_command hp .cSetLedColor rfl
  | cmdSetAllColor _ _ _ _ => exact decode_command hp .cSetAllColor rfl
  | cmdSetDefaultColor _ _ _ _ => exact decode_command hp .cSetDefaultColor rfl
  | cmdPower _ => exact decode_command hp .cPower rfl
  | cmdRainbow => exact decode_command hp .cRainbow rfl
  | cmdDeviceReset => exact decode_command hp .cDeviceReset rfl

/-! ### Words written out -/

/-- Settles O2: registers 3 and 4 are LED registers, and the default code map is searched for each code. -/
theorem writtenOutWordsDecode : Obligations.WrittenOutWordsDecode := by
  intro c hcodes hmax hcount
  have led : ∀ {a : Byte}, 1 ≤ a.toNat → a.toNat ≤ 4 → regClass c.par c.count a = .led := fun h1 h4 =>
    regClass_led_iff.2 ⟨h1, h4.trans hcount⟩
  have write : ∀ {T i}, T.length ≤ 7 → decodeWrite c T = i → decode c (.write T) = .ok i := fun hl =>
    decode_write (hl.trans hmax)
  have command : ∀ {k args i}, 2 + args.length ≤ 7 → decodeCommand CmdCodes.specDefault k args = i →
      decode c (.write (0 :: k :: args)) = .ok i := fun hl h => decode_payload (hl.trans hmax) (hcodes ▸ h)
  exact ⟨write (by decide) rfl, decode_address hmax (decodeWrite_eq_addrSetCmd c),
    decode_address hmax (decodeWrite_eq_addrSetLed (led (by decide) (by decide))),
    write (by decide) (decodeWrite_eq_regWrite (led (by decide) (by decide)) (List.cons_ne_nil _ _)),
    command (by decide) rfl, command (by decide) rfl, command (by decide) rfl, command (by decide) rfl, command (by decide) rfl,
    command (by decide) rfl⟩

end Sys2Proof

namespace Sys2Proof.Machine

/-! ### Operations outside their row's condition -/

theorem onCondition_of_not {cond : Prop} [Decidable cond] {k : Result} (h : ¬ cond) :
    onCondition cond k = .refused .formMismatch := if_neg h

/-- Settles O9: each meaning is guarded by its row's condition, and the guard refuses. -/
theorem operationsOutsideTheirConditionAreRefused : Obligations.OperationsOutsideTheirConditionAreRefused := fun s a data =>
  ⟨fun h => onCondition_of_not h, fun h => onCondition_of_not h, fun h => onCondition_of_not fun ⟨hled, _⟩ => h hled,
    fun h => onCondition_of_not fun ⟨h0, hled, _⟩ => h.elim h0 hled,
    onCondition_of_not fun ⟨_, hd⟩ => hd rfl, onCondition_of_not fun ⟨_, _, hd⟩ => hd rfl,
    fun h => onCondition_of_not h, fun h => onCondition_of_not (mt s.inPixel_iff.1 h),
    fun h => onCondition_of_not fun hin => Nat.not_lt.2 h (s.inResp_iff.1 hin),
    fun h => onCondition_of_not fun ⟨h0, hpix, hresp⟩ => by
      obtain h | h | h := h
      · exact h0 h
      · exact Bool.eq_false_iff.1 hpix (s.inPixel_iff.2 h)
      · exact Bool.eq_false_iff.1 hresp (s.inResp_iff.2 h)⟩

end Sys2Proof.Machine

/-! PROOFS. The register decoder (R76 to R92): what a bus event at the head of the schedule does, what each register operation leaves,
and the two read-back laws. -/

namespace Sys2Proof.Machine

variable {s t : State} {a v : Byte} {data l : List Byte} {rest : List Input}

/-! ### A step on a bus event -/

/-- The state in which a bus event at the head of the schedule is performed: the entry taken, the event observed (logs 4, 15). -/
def State.busTaken (s : State) (e : BusEvent) (rest : List Input) : State := { s with inputs := rest }.emit (.bus e)

theorem takeBusEvent_of_decode {e : BusEvent} {i : Instr} (h : decode s.ctx e = .ok i) :
    takeBusEvent e s = exec i (s.emit (.bus e)) := by
  rw [takeBusEvent, h]

/-- Settles O1: a step takes the first entry of the schedule, and a bus event is decoded in the state it finds. -/
theorem stepRunsTheDecodedOperation : Obligations.StepRunsTheDecodedOperation := fun _ _ _ _ hp hj hin hd =>
  (step_cons hp hj hin).trans (takeBusEvent_of_decode hd)

/-- A bus event at the head of the schedule, whose operation completes. -/
theorem step_bus {e : BusEvent} {i : Instr} (hp : s.par.wf = true) (hj : s.ctrl ≠ .jumped) (hin : s.inputs = .bus e :: rest)
    (hd : decode s.ctx e = .ok i) (hi : exec i (s.busTaken e rest) = .next t) : step s = .next t :=
  (stepRunsTheDecodedOperation s e rest i hp hj hin hd).trans hi

/-! ### Address-only writes -/

/-- Settles O13: `ADDR_SET_CMD` has no condition, and register 0 is that of `READ_CMD`. -/
theorem registerZeroSelectsTheResponse : Obligations.RegisterZeroSelectsTheResponse := fun _ => ⟨rfl, fun h => onCondition_of h⟩

theorem exec_addrSetLed (h1 : 1 ≤ a.toNat) (ha : a.toNat ≤ s.cfgCount.toNat) :
    exec (.addrSetLed a) s = .next (s.setPointer a 0) :=
  onCondition_of (regClass_led_iff.2 ⟨h1, ha⟩)

/-- Settles O14: the range is the class of LED registers. -/
theorem addressOnlyWriteSelectsAnLedRegister : Obligations.AddressOnlyWriteSelectsAnLedRegister := fun _ _ => exec_addrSetLed

/-- Settles O16: the encodings of the three rows are the reserved addresses, and their meanings have no condition. -/
theorem handshakeAddressesSetPointerAndFlag : Obligations.HandshakeAddressesSetPointerAndFlag := fun s hp hc =>
  have roundTrip := fun i => decodeOfEncodeGivesTheOperation s.ctx i hp hc
  ⟨roundTrip .addrSetBlIdent rfl, roundTrip .addrSetBlReset rfl, roundTrip .addrSetBlJump rfl, rfl, rfl, rfl⟩

/-! ### Reads of the frame buffer -/

/-- What a read at a byte of a pixel leaves: the byte answered and the pointer advanced (R88). -/
def State.ledRead (s : State) : State :=
  (s.setPointer (advance s.cfgCount s.bpp s.curAddr s.cursor).1 (advance s.cfgCount s.bpp s.curAddr s.cursor).2).emit
    (.readData (Memory.read s.fb (fbIndex s.bpp s.curAddr s.cursor)))

theorem readLedAt_of_lt (h : fbIndex s.bpp s.curAddr s.cursor < s.par.fbBytes) : readLedAt s = .next s.ledRead :=
  readLedAt_next_iff.2 ⟨h, rfl⟩

theorem exec_readLed (hc : s.cfgCount.toNat ≤ s.par.maxLeds) (hv : s.fbValid s.curAddr s.cursor) :
    exec .readLed s = .next s.ledRead := by
  obtain ⟨h1, hac, hcur⟩ := hv
  exact (onCondition_of (s.inPixel_iff.2 ⟨h1, hac, hcur⟩)).trans
    (readLedAt_of_lt ((fbIndex_lt h1 hac hcur).trans_le (State.logicalBytes_le_fbBytes hc)))

/-- Settles O21: a valid pointer of a safe state names a byte of the buffer. -/
theorem ledReadReturnsTheByteAndAdvances : Obligations.LedReadReturnsTheByteAndAdvances := fun _ hs hv =>
  exec_readLed hs.count.2 hv

/-- A read at register 1, cursor 0, answers byte 0 and leaves cursor 1, for a pixel has at least three bytes. -/
theorem readLedAt_first (hm : 1 ≤ s.par.maxLeds) :
    readLedAt (s.setPointer 1 0) = .next ((s.setPointer 1 1).emit (.readData (Memory.read s.fb 0))) := by
  have hadv : advance s.cfgCount s.bpp 1 0 = (1, 1) := advance_inside (Nat.lt_of_lt_of_le (by decide) s.bpp_bounds.1)
  have hidx : fbIndex s.bpp 1 0 = 0 := by simp [fbIndex]
  have hlt : fbIndex s.bpp 1 0 < s.par.fbBytes := by
    rw [hidx, Params.fbBytes]
    omega
  have hread : (s.setPointer 1 0).ledRead = (s.setPointer (advance s.cfgCount s.bpp 1 0).1
      (advance s.cfgCount s.bpp 1 0).2).emit (.readData (Memory.read s.fb (fbIndex s.bpp 1 0))) := rfl
  rw [readLedAt_of_lt (s := s.setPointer 1 0) hlt, hread, hadv, hidx]

/-- An address above the count that is not reserved is invalid, whatever the parameters are (R34). -/
theorem State.classOf_invalid (h : s.cfgCount.toNat < a.toNat) (hi : a ≠ s.par.blAddrIdent) (hr : a ≠ s.par.blAddrReset)
    (hj : a ≠ s.par.blAddrJump) : s.classOf a = .invalid := by
  obtain ⟨h0, hled⟩ := count_lt_iff.1 h
  rw [State.classOf, regClass, if_neg h0, if_neg hled, if_neg hi, if_neg hr, if_neg hj]

/-- Settles O15: the address is of the class of `ADDR_SET_CLAMP`, and register 1 of a safe state is an LED register. -/
theorem addressOnlyWriteClampsAnInvalidAddress : Obligations.AddressOnlyWriteClampsAnInvalidAddress := by
  intro s a ha hi hr hj
  refine ⟨onCondition_of (State.classOf_invalid ha hi hr hj), fun hs => ?_⟩
  have hv : (s.setPointer 1 0).ctx.inPixel = true := (s.setPointer 1 0).inPixel_iff.2 (State.fbValid_zero ⟨le_rfl, hs.count.1⟩)
  exact (onCondition_of hv).trans (readLedAt_first (Params.wf_bounds hs.params).1.1)

/-! ### Reads of the response sequences -/

/-- The sequence read at a reserved address is that address's own (R5, R34). -/
theorem State.blResp_classOf (hp : s.par.wf = true) (hc : s.cfgCount.toNat ≤ s.par.maxLeds)
    (h : a = s.par.blAddrIdent ∧ l = s.par.blRespIdent ∨ a = s.par.blAddrReset ∧ l = s.par.blRespReset ∨
      a = s.par.blAddrJump ∧ l = s.par.blRespJump) : blResp s.par (s.classOf a) = l := by
  unfold State.classOf
  obtain ⟨rfl, rfl⟩ | ⟨rfl, rfl⟩ | ⟨rfl, rfl⟩ := h
  · rw [regClass_blIdent hp hc, blResp]
  · rw [regClass_blReset hp hc, blResp]
  · rw [regClass_blJump hp hc, blResp]

theorem readBlAt_of_getElem? (hl : blResp s.par (s.classOf s.curAddr) = l) (hv : l[s.cursor.toNat]? = some v) :
    readBlAt s =
      .next ((s.setPointer s.curAddr (BitVec.ofNat 8 ((s.cursor.toNat + 1) % l.length))).emit (.readData v)) := by
  subst hl
  exact readBlAt_next_iff.2 ⟨v, hv, rfl⟩

/-- Settles O22: a byte under the cursor means the cursor is inside the sequence, the condition of `READ_BL`. -/
theorem handshakeReadCyclesThroughItsSequence : Obligations.HandshakeReadCyclesThroughItsSequence := by
  intro s l v hp hc haddr hv
  have hl := State.blResp_classOf hp hc haddr
  have hin : s.ctx.inResp = true := s.inResp_iff.2 (hl ▸ (List.getElem?_eq_some_iff.1 hv).1)
  exact (onCondition_of hin).trans (readBlAt_of_getElem? hl hv)

/-! ### The repaired read -/

/-- With the cursor past a reserved address's sequence, `READ_FIX` reads its first byte (R90). -/
theorem exec_readFix_of_resp (hne : blResp s.par (s.classOf s.curAddr) ≠ [])
    (hcur : (blResp s.par (s.classOf s.curAddr)).length ≤ s.cursor.toNat) :
    exec .readFix s = readBlAt (s.setPointer s.curAddr 0) := by
  have hresp : s.ctx.inResp = false := Bool.eq_false_iff.2 fun h => Nat.not_lt.2 hcur (s.inResp_iff.1 h)
  have h0 : s.curAddr ≠ 0 := fun h => hne (by rw [State.classOf, regClass_cmd_iff.2 h, blResp])
  have hpix : s.ctx.inPixel = false := Bool.eq_false_iff.2 fun h => by
    obtain ⟨h1, hac, -⟩ := s.inPixel_iff.1 h
    exact hne (by rw [State.classOf, regClass_led_iff.2 ⟨h1, hac⟩, blResp])
  refine (onCondition_of ⟨h0, hpix, hresp⟩).trans ?_
  split
  case h_1 | h_2 | h_3 => rfl
  case h_4 hk | h_5 hk | h_6 hk => exact absurd (by rw [hk, blResp]) hne

/-- At an invalid address, or past a pixel, `READ_FIX` reads the first byte of register 1 (R90). -/
theorem exec_readFix_of_led
    (h : s.classOf s.curAddr = .invalid ∨ s.classOf s.curAddr = .led ∧ s.bpp ≤ s.cursor.toNat) :
    exec .readFix s = readLedAt (s.setPointer 1 0) := by
  have hk : s.classOf s.curAddr = .invalid ∨ s.classOf s.curAddr = .led := h.imp_right And.left
  have h0 : s.curAddr ≠ 0 := fun h0 => by
    have hcmd : s.classOf s.curAddr = .cmd := regClass_cmd_iff.2 h0
    simp [hcmd] at hk
  have hpix : s.ctx.inPixel = false := Bool.eq_false_iff.2 fun hin => by
    obtain ⟨h1, hac, hcur⟩ := s.inPixel_iff.1 hin
    rcases h with hk | ⟨-, hcur'⟩
    · exact absurd (hk.symm.trans (regClass_led_iff.2 ⟨h1, hac⟩)) (by decide)
    · omega
  have hresp : s.ctx.inResp = false := Bool.eq_false_iff.2 fun hin => by
    have hlt := s.inResp_iff.1 hin
    rcases hk with hk | hk <;> simp [hk, blResp] at hlt
  refine (onCondition_of ⟨h0, hpix, hresp⟩).trans ?_
  rcases hk with hk | hk <;> rw [hk]

/-- Settles O23: the pointer meets the condition of `READ_FIX`, and the byte comes from where R90 corrects it to. -/
theorem inconsistentReadIsRepaired : Obligations.InconsistentReadIsRepaired := by
  intro s hp hc
  refine ⟨fun l v haddr hcur hv => ?_, fun h => ?_⟩
  · have hl := State.blResp_classOf hp hc haddr
    have hne : l ≠ [] := by rintro rfl; cases hv
    exact (exec_readFix_of_resp (hl ▸ hne) (hl ▸ hcur)).trans (readBlAt_of_getElem? (s := s.setPointer s.curAddr 0) hl hv)
  · have hled : s.classOf s.curAddr = .invalid ∨ s.classOf s.curAddr = .led ∧ s.bpp ≤ s.cursor.toNat :=
      h.imp_right fun ⟨h1, hac, hcur⟩ => ⟨regClass_led_iff.2 ⟨h1, hac⟩, hcur⟩
    exact (exec_readFix_of_led hled).trans (readLedAt_first (Params.wf_bounds hp).1.1)

/-! ### Register writes -/

theorem exec_regWrite (hc : s.cfgCount.toNat ≤ s.par.maxLeds) (h1 : 1 ≤ a.toNat) (ha : a.toNat ≤ s.cfgCount.toNat)
    (hd : data ≠ []) :
    exec (.regWrite a data) s =
      .next ((s.withFb (Memory.writeAll s.fb (regWalk s.cfgCount s.bpp a 0 data).1)).setPointer
        (regWalk s.cfgCount s.bpp a 0 data).2.1 (regWalk s.cfgCount s.bpp a 0 data).2.2) := by
  obtain ⟨-, -, hcur⟩ := State.fbValid_zero ⟨h1, ha⟩
  have inside : ∀ x ∈ (regWalk s.cfgCount s.bpp a 0 data).1, x.1 < s.par.fbBytes := fun x hx =>
    (regWalk_lt s.bpp_bounds.1 s.bpp_bounds.2 data h1 ha hcur x hx).trans_le (State.logicalBytes_le_fbBytes hc)
  exact (onCondition_of ⟨regClass_led_iff.2 ⟨h1, ha⟩, hd⟩).trans (fbStore_of_range inside)

/-- Settles O17: the stores of the walk lie in the buffer, and nothing else is written but the pointer. -/
theorem registerWriteStoresAlongTheWalk : Obligations.RegisterWriteStoresAlongTheWalk := fun _ _ _ hs h1 ha hd =>
  ⟨_, exec_regWrite hs.count.2 h1 ha hd, Memory.read_writeAll hs.fbForm _, rfl⟩

/-! ### The bytes a run returns -/

theorem returnedBytes_append (tr tr' : List Event) : returnedBytes (tr ++ tr') = returnedBytes tr ++ returnedBytes tr' :=
  List.filterMap_append

/-- A bus event is no answer. -/
theorem returnedBytes_busTaken (s : State) (e : BusEvent) (rest : List Input) :
    returnedBytes (s.busTaken e rest).trace = returnedBytes s.trace :=
  (returnedBytes_append s.trace [.bus e]).trans (List.append_nil _)

theorem returnedBytes_ledRead (s : State) :
    returnedBytes s.ledRead.trace = returnedBytes s.trace ++ [Memory.read s.fb (fbIndex s.bpp s.curAddr s.cursor)] :=
  returnedBytes_append s.trace _

/-- The `n` bytes that stand from index `i` on in the window of the LED registers, past its end from its start again (R39). -/
def State.windowBytes (s : State) (i n : Nat) : List Byte :=
  (List.range n).map fun j => Memory.read s.fb ((i + j) % s.logicalBytes)

@[simp] theorem State.length_windowBytes (s : State) (i n : Nat) : (s.windowBytes i n).length = n := by simp [State.windowBytes]

theorem State.windowBytes_succ {i : Nat} (hi : i < s.logicalBytes) (n : Nat) :
    s.windowBytes i (n + 1) = Memory.read s.fb i :: s.windowBytes ((i + 1) % s.logicalBytes) n := by
  simp only [State.windowBytes, List.range_succ_eq_map, List.map_cons, List.map_map, Nat.add_zero, Nat.mod_eq_of_lt hi,
    Function.comp_def, Nat.mod_add_mod, Nat.add_assoc, Nat.succ_eq_add_one, Nat.add_comm 1]

theorem State.getElem?_windowBytes {i j n : Nat} (hj : j < n) (hi : i + j < s.logicalBytes) :
    (s.windowBytes i n)[j]? = some (Memory.read s.fb (i + j)) := by
  simp [State.windowBytes, hj, Nat.mod_eq_of_lt hi]

/-! ### Scheduled reads -/

/-- The events that read `n` bytes of register `a` back: its address-only write and `n` read requests. -/
def readBack (a : Byte) (n : Nat) (rest : List Input) : List Input :=
  .bus (.write [a]) :: (List.replicate n (.bus .read) ++ rest)

section ScheduledReads

variable (hp : s.par.wf = true) (hc : s.cfgCount.toNat ≤ s.par.maxLeds) (hj : s.ctrl ≠ .jumped)
include hp hc hj

theorem step_readLed (hv : s.fbValid s.curAddr s.cursor) (hin : s.inputs = .bus .read :: rest) :
    step s = .next (s.busTaken .read rest).ledRead :=
  step_bus hp hj hin (congrArg _ (decodeRead_eq_readLed (s.inPixel_iff.2 hv))) (exec_readLed (s := s.busTaken .read rest) hc hv)

/-- Reads scheduled in a row at a valid pointer return the window's bytes from the pointer on (R88, R39). -/
theorem run_reads (n : Nat) (hv : s.fbValid s.curAddr s.cursor) (hin : s.inputs = List.replicate n (.bus .read) ++ rest) :
    ∃ t, run n s = .next t ∧
      returnedBytes t.trace = returnedBytes s.trace ++ s.windowBytes (fbIndex s.bpp s.curAddr s.cursor) n := by
  induction n generalizing s with
  | zero => exact ⟨s, rfl, (List.append_nil _).symm⟩
  | succ n ih =>
    have hstep := step_readLed hp hc hj hv hin
    obtain ⟨t, ht, hbytes⟩ := ih (s := (s.busTaken .read _).ledRead) hp hc hj (s.fbValid_advance hv) rfl
    obtain ⟨h1, hac, hcur⟩ := hv
    refine ⟨t, (run_step hstep).trans ht, ?_⟩
    rw [hbytes, returnedBytes_ledRead, returnedBytes_busTaken, State.windowBytes_succ (fbIndex_lt h1 hac hcur), State.logicalBytes,
      ← fbIndex_advance s.bpp_bounds.1 s.bpp_bounds.2 h1 hac hcur, List.append_assoc]
    rfl

/-- Reading `BPP` bytes of an LED register back returns the register's pixel (R79, R88). -/
theorem run_readBack (h1 : 1 ≤ a.toNat) (ha : a.toNat ≤ s.cfgCount.toNat) (hin : s.inputs = readBack a s.bpp rest) :
    ∃ t, run (1 + s.bpp) s = .next t ∧
      returnedBytes t.trace = returnedBytes s.trace ++ s.windowBytes ((a.toNat - 1) * s.bpp) s.bpp := by
  obtain ⟨-, -, -, -, hmax⟩ := Params.wf_bounds hp
  have hdec : decode s.ctx (.write [a]) = .ok (.addrSetLed a) :=
    decode_address hmax (decodeWrite_eq_addrSetLed (regClass_led_iff.2 ⟨h1, ha⟩))
  have hstep := step_bus hp hj hin hdec (exec_addrSetLed h1 ha)
  obtain ⟨t, ht, hbytes⟩ := run_reads (s := (s.busTaken (.write [a]) _).setPointer a 0) hp hc hj s.bpp
    (State.fbValid_zero ⟨h1, ha⟩) rfl
  refine ⟨t, (run_append 1 s.bpp (run_step hstep)).trans ht, ?_⟩
  rw [hbytes, State.trace_setPointer, returnedBytes_busTaken]
  rfl

/-- An operation that replaces the frame buffer and moves the pointer, then the events that read a register back: they return the
register's pixel of the new buffer. -/
theorem run_store_and_readBack {e : BusEvent} {i : Instr} {m : Memory} {b c : Byte} (h1 : 1 ≤ a.toNat)
    (ha : a.toNat ≤ s.cfgCount.toNat) (hin : s.inputs = .bus e :: readBack a s.bpp rest) (hd : decode s.ctx e = .ok i)
    (hi : exec i (s.busTaken e (readBack a s.bpp rest)) =
      .next (((s.busTaken e (readBack a s.bpp rest)).withFb m).setPointer b c)) :
    ∃ t, run (2 + s.bpp) s = .next t ∧
      returnedBytes t.trace = returnedBytes s.trace ++ (s.withFb m).windowBytes ((a.toNat - 1) * s.bpp) s.bpp := by
  have hstep := step_bus hp hj hin hd hi
  obtain ⟨t, ht, hbytes⟩ := run_readBack (s := ((s.busTaken e (readBack a s.bpp rest)).withFb m).setPointer b c)
    hp hc hj h1 ha rfl
  have hrun := run_append 1 (1 + s.bpp) (run_step hstep)
  rw [← Nat.add_assoc] at hrun
  refine ⟨t, hrun.trans ht, ?_⟩
  rw [hbytes, State.trace_setPointer, State.trace_withFb, returnedBytes_busTaken]
  rfl

end ScheduledReads

/-! ### A register written reads back -/

/-- A logical pixel lies inside the window. -/
theorem State.pixel_le_logicalBytes {q : Nat} (hq : q < s.cfgCount.toNat) : q * s.bpp + s.bpp ≤ s.logicalBytes := by
  rw [← Nat.succ_mul]
  exact Nat.mul_le_mul_right s.bpp hq

theorem getElem?_windowBytes_pixel {q j : Nat} (hq : q < s.cfgCount.toNat) (hj : j < s.bpp) :
    (s.windowBytes (q * s.bpp) s.bpp)[j]? = some (Memory.read s.fb (q * s.bpp + j)) :=
  State.getElem?_windowBytes hj ((Nat.add_lt_add_left hj _).trans_le (State.pixel_le_logicalBytes hq))

/-- After stores to consecutive indices each index holds the byte stored to it. -/
theorem lastStore_zipIdx (ds : List Byte) (i j : Nat) :
    lastStore (ds.zipIdx.map fun dk => (i + dk.2, dk.1)) (i + j) = ds[j]? := by
  induction ds generalizing i j with
  | nil => rfl
  | cons d ds ih =>
    have later : ((d :: ds).zipIdx.map fun dk => (i + dk.2, dk.1)) =
        (i, d) :: ds.zipIdx.map fun dk => (i + 1 + dk.2, dk.1) := by
      simp [List.zipIdx_succ, Function.comp_def, Nat.add_assoc, Nat.add_comm 1]
    rw [later, lastStore]
    cases j with
    | zero =>
      have untouched : ∀ c ∈ ds.zipIdx.map fun dk => (i + 1 + dk.2, dk.1), c.1 ≠ i + 0 := by
        rintro _ hc
        obtain ⟨dk, -, rfl⟩ := List.mem_map.1 hc
        exact Nat.ne_of_gt (by omega)
      rw [lastStore_eq_none.2 untouched]
      simp
    | succ j =>
      rw [← Nat.add_assoc, Nat.add_right_comm, ih, if_neg (by omega), Option.or_none, List.getElem?_cons_succ]

/-- A register walk that ends inside the window stores its bytes to consecutive indices (R84). -/
theorem regWalk_stores_inside {n : Nat} {count c : Byte} (hn : 3 ≤ n) (hn' : n ≤ 4) (h1 : 1 ≤ a.toNat)
    (ha : a.toNat ≤ count.toNat) (hc : c.toNat < n) (hl : fbIndex n a c + data.length ≤ count.toNat * n) :
    (regWalk count n a c data).1 = data.zipIdx.map fun dk => (fbIndex n a c + dk.2, dk.1) := by
  rw [regWalk_stores hn hn' data h1 ha hc]
  refine List.map_congr_left fun dk hdk => ?_
  have := List.snd_lt_of_mem_zipIdx hdk
  rw [Nat.mod_eq_of_lt (by omega)]

/-- A write of at most `BPP` bytes ends inside the window, so byte `j` of the register's pixel is byte `j` of the write. -/
theorem read_regWrite (hm : Memory.wf s.fb) (h1 : 1 ≤ a.toNat) (ha : a.toNat ≤ s.cfgCount.toNat)
    (hl : data.length ≤ s.bpp) {j : Nat} (hj : j < data.length) :
    Memory.read (Memory.writeAll s.fb (regWalk s.cfgCount s.bpp a 0 data).1) ((a.toNat - 1) * s.bpp + j) = data[j] := by
  have hin : (a.toNat - 1) * s.bpp + s.bpp ≤ s.cfgCount.toNat * s.bpp := State.pixel_le_logicalBytes (by omega)
  have hst : (regWalk s.cfgCount s.bpp a 0 data).1 = data.zipIdx.map fun dk => ((a.toNat - 1) * s.bpp + dk.2, dk.1) :=
    regWalk_stores_inside s.bpp_bounds.1 s.bpp_bounds.2 h1 ha (State.fbValid_zero ⟨h1, ha⟩).2.2
      ((Nat.add_le_add_left hl _).trans hin)
  rw [Memory.read_writeAll hm, hst, storedByte, lastStore_zipIdx, List.getElem?_eq_getElem hj, Option.getD_some]

/-- The pixel of a register to which `BPP` bytes were written is these bytes. -/
theorem windowBytes_regWrite (hm : Memory.wf s.fb) (h1 : 1 ≤ a.toNat) (ha : a.toNat ≤ s.cfgCount.toNat)
    (hl : data.length = s.bpp) :
    (s.withFb (Memory.writeAll s.fb (regWalk s.cfgCount s.bpp a 0 data).1)).windowBytes ((a.toNat - 1) * s.bpp) s.bpp = data := by
  refine List.ext_getElem? fun j => ?_
  by_cases hj : j < data.length
  · have hread := read_regWrite hm h1 ha hl.le hj
    rw [List.getElem?_eq_getElem hj, ← hread]
    exact getElem?_windowBytes_pixel (s := s.withFb _) (show a.toNat - 1 < s.cfgCount.toNat by omega) (hl ▸ hj)
  · rw [List.getElem?_eq_none (by simp; omega), List.getElem?_eq_none (by omega)]

/-- Settles O25: the bytes read are the pixel of the register, which is the data written. -/
theorem writtenRegisterReadsBack : Obligations.WrittenRegisterReadsBack := by
  intro s a ds rest hs hj h1 ha hl hin
  obtain ⟨-, hc⟩ := hs.count
  obtain ⟨-, -, -, -, hmax⟩ := Params.wf_bounds hs.params
  obtain ⟨hb3, hb4⟩ := s.bpp_bounds
  have hd : ds ≠ [] := List.ne_nil_of_length_pos (by omega)
  have hdec : decode s.ctx (.write (a :: ds)) = .ok (.regWrite a ds) :=
    decode_write (le_trans (by rw [List.length_cons]; omega) hmax) (decodeWrite_eq_regWrite (regClass_led_iff.2 ⟨h1, ha⟩) hd)
  obtain ⟨t, ht, hbytes⟩ := run_store_and_readBack hs.params hc hj h1 ha hin hdec
    (exec_regWrite (s := s.busTaken _ _) hc h1 ha hd)
  exact ⟨t, ht, hbytes.trans (congrArg _ (windowBytes_regWrite hs.fbForm h1 ha hl))⟩

/-! ### A colour set by command reads back -/

theorem exec_cmdSetLedColor {p r g b w : Byte} (hc : s.cfgCount.toNat ≤ s.par.maxLeds) (hp : p.toNat < s.cfgCount.toNat) :
    exec (.cmdSetLedColor p r g b w) s =
      .next ((s.withFb (Memory.writeAll s.fb (pixelStores s.fmt p.toNat ⟨r, g, b, w⟩))).setPointer 0 0) :=
  (withIndex_of_lt hp).trans (fbStore_of_range (pixelStores_range (hp.trans_le hc)))

/-- A channel of a logical pixel is the byte of the pixel at the channel's offset (R43). -/
theorem getElem?_windowBytes_channel {q : Nat} {off : BitVec 2} (hq : q < s.cfgCount.toNat) (hoff : off.toNat < s.bpp) :
    (s.windowBytes (q * s.bpp) s.bpp)[off.toNat]? = some (channelRead s.fb s.bpp (q * s.bpp) off) := by
  rw [getElem?_windowBytes_pixel hq hoff, channelRead, if_pos hoff]

/-- The bytes of a logical pixel hold its colour at the channel offsets, when these are a permutation (R43). -/
theorem windowBytes_of_pixelRead {q : Nat} {col : Color} (hq : q < s.cfgCount.toNat) (hf : offsetsPermute s.fmt)
    (hcol : pixelRead s.fmt s.fb q = col) :
    (s.windowBytes (q * s.bpp) s.bpp)[s.fmt.offR.toNat]? = some col.r ∧
      (s.windowBytes (q * s.bpp) s.bpp)[s.fmt.offG.toNat]? = some col.g ∧
      (s.windowBytes (q * s.bpp) s.bpp)[s.fmt.offB.toNat]? = some col.b ∧
      (s.bpp = 4 → (s.windowBytes (q * s.bpp) s.bpp)[s.fmt.offW.toNat]? = some col.w) := by
  subst hcol
  obtain ⟨-, -, -, hr, hg, hb, -⟩ := hf
  rw [pixelRead_eq]
  refine ⟨getElem?_windowBytes_channel hq hr, getElem?_windowBytes_channel hq hg, getElem?_windowBytes_channel hq hb,
    fun h4 => ?_⟩
  rw [getElem?_windowBytes_channel hq (h4 ▸ s.fmt.offW.isLt), if_pos ((Bpp.toNat_eq_four_iff _).1 h4)]
  rfl

/-- Settles O26: the bytes read are the pixel the command wrote, which reads as the colour set. -/
theorem setColorReadsBackAtTheOffsets : Obligations.SetColorReadsBackAtTheOffsets := by
  intro s p r g b w rest hs hj hp hf hin
  obtain ⟨-, hc⟩ := hs.count
  have hdec : decode s.ctx (.write [0, s.par.codes.cSetLedColor, p, r, g, b, w]) = .ok (.cmdSetLedColor p r g b w) :=
    decode_command (c := s.ctx) hs.params .cSetLedColor (args := [p, r, g, b, w]) rfl
  have hp1 : (p + 1).toNat = p.toNat + 1 := BitVec.toNat_add_of_lt (Nat.lt_of_le_of_lt hp s.cfgCount.isLt)
  obtain ⟨t, ht, hbytes⟩ := run_store_and_readBack hs.params hc hj (by omega) (by omega) hin hdec
    (exec_cmdSetLedColor (s := s.busTaken _ _) hc hp)
  rw [hp1, Nat.add_sub_cancel] at hbytes
  have hpix := pixelRead_pixelWrite (q := p.toNat) (col := ⟨r, g, b, w⟩) hs.fbForm hf
  obtain ⟨hr, hg, hb, hw⟩ := windowBytes_of_pixelRead
    (s := s.withFb (Memory.writeAll s.fb (pixelStores s.fmt p.toNat ⟨r, g, b, w⟩))) hp hf hpix
  exact ⟨t, _, ht, hbytes, State.length_windowBytes _ _ _, hr, hg, hb, fun h4 =>
    (hw h4).trans (congrArg some (if_pos ((Bpp.toNat_eq_four_iff _).1 h4)))⟩

end Sys2Proof.Machine

/-! PROOFS. The command dispatcher (R93 to R110): what the dispatcher does with a payload, what each command leaves, and what the bulk
stores leave in the frame buffer. -/

namespace Sys2Proof.Machine

variable {s : State} {m : Memory} {c : Cmd} {k : Byte} {args : List Byte}

/-! ### The dispatcher -/

theorem exec_cmdWrite_short (hk : s.par.codes.find k = some c) (ha : args.length < c.arity) :
    exec (.cmdWrite k args) s = .next (s.emit (.drop .shortArgs)) := by
  show execCmdWrite k args s = _
  simp only [execCmdWrite, hk, if_pos ha, raiseDrop]

theorem exec_cmdWrite_of_arity_le (hk : s.par.codes.find k = some c) (ha : c.arity ≤ args.length) :
    exec (.cmdWrite k args) s = exec (buildCommand c args) s := by
  show execCmdWrite k args s = _
  simp only [execCmdWrite, hk, if_neg (Nat.not_lt.2 ha), exec_buildCommand]

/-- Settles O28: a payload shorter than its command's arity is deliverable, stays with the row `CMD_WRITE`, and is dropped there. -/
theorem shortCommandsLeaveTheBlockUnchanged : Obligations.ShortCommandsLeaveTheBlockUnchanged := by
  intro s c args rest hp hj ha hin
  obtain ⟨-, -, -, -, hmax⟩ := Params.wf_bounds hp
  have hle := c.arity_le
  have hk := CmdCodes.find_code (Params.wf_codes hp) c
  have hd : decode s.ctx (.write (0 :: s.par.codes.code c :: args)) = .ok (.cmdWrite (s.par.codes.code c) args) :=
    decode_payload (show 2 + args.length ≤ s.par.maxTxnLen by omega) <| decodeCommand_eq_cmdWrite fun d h => by
      obtain rfl : c = d := Option.some.inj (hk.symm.trans h)
      exact ha
  rw [step_bus hp hj hin hd (exec_cmdWrite_short hk ha)]
  simp [State.busTaken, State.emit]

/-! ### Commands that store nothing in the frame buffer -/

theorem exec_cmdCopyAll {i : Byte} (hi : i.toNat < s.cfgCount.toNat) :
    exec (.cmdCopyAll i) s = .next (({ s with copyIdx := i }.setFlag .copy).setPointer 0 0) := withIndex_of_lt hi

theorem exec_cmdSetDefaultFromIndex {i : Byte} (hc : s.cfgCount.toNat ≤ s.par.maxLeds) (hi : i.toNat < s.cfgCount.toNat) :
    exec (.cmdSetDefaultFromIndex i) s =
      .next (({ s with cfgDefColor := pixelRead s.fmt s.fb i.toNat }.setFlag .persist).setPointer 0 0) :=
  (withIndex_of_lt hi).trans (fbLoad_of_range (pixelIndices_range (hi.trans_le hc)))

theorem exec_cmdPower_on {v : Byte} (hv : v ≠ 0) :
    exec (.cmdPower v) s = .next (({ s with pwrOn := true }.setFlag .settle).setPointer 0 0) := if_pos hv

theorem exec_cmdPower_off {v : Byte} (hv : v = 0) :
    exec (.cmdPower v) s = .next ({ s with pwrOn := false }.setPointer 0 0) := if_neg (not_not.2 hv)

/-- R68: the byte that comes first is the high one. -/
theorem toNat_append_byte (hi lo : Byte) : (hi ++ lo).toNat = hi.toNat * 256 + lo.toNat := by
  rw [BitVec.toNat_append, ← Nat.shiftLeft_add_eq_or_of_lt lo.isLt, Nat.shiftLeft_eq]

/-- Settles O31: `CMD_SHOW` has no condition, and a good index passes the check of `CMD_COPY_ALL`. -/
theorem showAndCopyAllOnlyRequest : Obligations.ShowAndCopyAllOnlyRequest := fun _ _ => ⟨rfl, exec_cmdCopyAll⟩

/-- Settles O32: the value stored is `clampCount`, whose bound the byte can hold. -/
theorem setLedCountClamps : Obligations.SetLedCountClamps := fun s n hp =>
  have ⟨⟨_, hmax⟩, _⟩ := Params.wf_bounds hp
  ⟨clampCount s.par n, clampCount_toNat hmax n, rfl⟩

/-- Settles O33: the three meanings have no condition, and the type is its two bytes joined. -/
theorem configurationCommandsWriteTheMirror : Obligations.ConfigurationCommandsWriteTheMirror :=
  fun _ hi lo _ _ _ _ _ => ⟨⟨hi ++ lo, toNat_append_byte hi lo, rfl⟩, rfl, rfl⟩

/-- Settles O34: a logical pixel lies inside the buffer, so its colour is read. -/
theorem setDefaultFromIndexReadsThePixel : Obligations.SetDefaultFromIndexReadsThePixel := fun _ _ hs hi =>
  exec_cmdSetDefaultFromIndex hs.count.2 hi

/-- Settles O37: the two branches of the command, and the output's definition. -/
theorem powerCommandDrivesTheOutput : Obligations.PowerCommandDrivesTheOutput := fun _ _ =>
  ⟨exec_cmdPower_on, exec_cmdPower_off rfl, rfl⟩

/-- Settles O39: the command has no condition. -/
theorem deviceResetStagesAResponse : Obligations.DeviceResetStagesAResponse := fun _ => rfl

/-! ### Commands that store in the frame buffer -/

/-- Stores to logical bytes only go through (R58). -/
theorem fbStore_of_logical {st : List Host.Cell} {k : State → Result} (hc : s.cfgCount.toNat ≤ s.par.maxLeds)
    (hst : ∀ x ∈ st, x.1 < s.logicalBytes) : fbStore st s k = k (s.withFb (Memory.writeAll s.fb st)) :=
  fbStore_of_range fun x hx => (hst x hx).trans_le (State.logicalBytes_le_fbBytes hc)

theorem exec_cmdClear (hc : s.cfgCount.toNat ≤ s.par.maxLeds) :
    exec .cmdClear s = .next ((s.withFb (Memory.writeAll s.fb (zeroStores s.logicalBytes))).setPointer 0 0) :=
  fbStore_of_logical hc zeroStores_lt

theorem exec_cmdClearShow (hc : s.cfgCount.toNat ≤ s.par.maxLeds) :
    exec .cmdClearShow s =
      .next (((s.withFb (Memory.writeAll s.fb (zeroStores s.logicalBytes))).setFlag .render).setPointer 0 0) :=
  fbStore_of_logical hc zeroStores_lt (k := fun t => executed (t.setFlag .render))

theorem exec_cmdSetAllColor {r g b w : Byte} (hc : s.cfgCount.toNat ≤ s.par.maxLeds) :
    exec (.cmdSetAllColor r g b w) s =
      .next ((s.withFb (Memory.writeAll s.fb (fillStores s.fmt s.cfgCount.toNat ⟨r, g, b, w⟩))).setPointer 0 0) :=
  fbStore_of_range (fillStores_range hc)

theorem exec_cmdRainbow (hc : s.cfgCount.toNat ≤ s.par.maxLeds) :
    exec .cmdRainbow s =
      .next ((((s.withFb (Memory.writeAll s.fb (rainbowStores s.draws s.logicalBytes))).tookDraws
        s.logicalBytes).setFlag .render).setPointer 0 0) :=
  fbStore_of_logical hc rainbowStores_lt (k := fun t => executed ((t.tookDraws s.logicalBytes).setFlag .render))

/-! ### What the stores leave -/

/-- A byte after stores that give each of the first `n` bytes one value (R44, R108). -/
theorem read_writeAll_of_lastStore (hm : Memory.wf m) {st : List Host.Cell} {n i : Nat} {v : Byte}
    (h : lastStore st i = if i < n then some v else none) :
    Memory.read (Memory.writeAll m st) i = if i < n then v else Memory.read m i := by
  rw [Memory.read_writeAll hm, storedByte, h]
  split_ifs <;> rfl

/-- A pixel write does not reach a byte of another pixel (R42). -/
theorem lastStore_pixelStores_of_ne {f : PixelFormat} {p q j : Nat} {col : Color} (hpq : p ≠ q) (hj : j < f.bpp.toNat) :
    lastStore (pixelStores f p col) (q * f.bpp.toNat + j) = none := by
  refine lastStore_eq_none.2 fun x hx heq => ?_
  obtain ⟨hlow, hhigh⟩ := mem_pixelStores hx
  rcases Nat.lt_or_gt_of_ne hpq with h | h
  all_goals
    have next := Nat.mul_le_mul_right f.bpp.toNat (Nat.succ_le_of_lt h)
    rw [Nat.succ_mul] at next
    omega

/-- In a fill, a byte of a pixel is decided by that pixel's own write (R44). -/
theorem lastStore_fillStores {f : PixelFormat} {n q j : Nat} {col : Color} (hq : q < n) (hj : j < f.bpp.toNat) :
    lastStore (fillStores f n col) (q * f.bpp.toNat + j) = lastStore (pixelStores f q col) (q * f.bpp.toNat + j) := by
  induction n with
  | zero => exact absurd hq (Nat.not_lt_zero q)
  | succ n ih =>
    rw [fillStores_succ, lastStore_append]
    rcases Nat.lt_succ_iff_lt_or_eq.1 hq with h | rfl
    · rw [lastStore_pixelStores_of_ne h.ne' hj, Option.none_or, ih h]
    · have earlier : lastStore (fillStores f q col) (q * f.bpp.toNat + j) = none :=
        lastStore_eq_none.2 fun x hx => ((mem_fillStores hx).trans_le (Nat.le_add_right _ j)).ne
      rw [earlier, Option.or_none]

theorem read_fillStores (hm : Memory.wf m) {f : PixelFormat} {n q j : Nat} {col : Color} (hq : q < n)
    (hj : j < f.bpp.toNat) :
    Memory.read (Memory.writeAll m (fillStores f n col)) (q * f.bpp.toNat + j) =
      storedByte m (pixelStores f q col) (q * f.bpp.toNat + j) := by
  rw [Memory.read_writeAll hm, storedByte, storedByte, lastStore_fillStores hq hj]

theorem read_fillStores_beyond (hm : Memory.wf m) {f : PixelFormat} {n i : Nat} {col : Color} (hi : n * f.bpp.toNat ≤ i) :
    Memory.read (Memory.writeAll m (fillStores f n col)) i = Memory.read m i := by
  rw [Memory.read_writeAll hm]
  exact storedByte_of_not_mem fun x hx => ((mem_fillStores hx).trans_le hi).ne

/-! ### The frame-buffer commands -/

/-- Settles O30: both commands store zeros in the logical bytes; the second also sets its flag. -/
theorem clearZeroesTheLogicalBytes : Obligations.ClearZeroesTheLogicalBytes := fun s hs =>
  have zeroed := fun i => read_writeAll_of_lastStore hs.fbForm (lastStore_zeroStores s.logicalBytes i)
  ⟨⟨_, exec_cmdClear hs.count.2, zeroed, rfl⟩, ⟨_, exec_cmdClearShow hs.count.2, zeroed, rfl⟩⟩

/-- Settles O35: the stores are those of one pixel write. -/
theorem setLedColorWritesOnePixel : Obligations.SetLedColorWritesOnePixel := fun _ _ _ _ _ _ hs hi =>
  ⟨_, exec_cmdSetLedColor hs.count.2 hi, Memory.read_writeAll hs.fbForm _, fun _ => read_pixelWrite_outside hs.fbForm, rfl⟩

/-- Settles O36: each logical pixel is decided by its own write, and every store is to a logical byte. -/
theorem setAllColorFillsTheLogicalPixels : Obligations.SetAllColorFillsTheLogicalPixels := fun _ _ _ _ _ hs =>
  ⟨_, exec_cmdSetAllColor hs.count.2, fun _ _ => read_fillStores hs.fbForm, fun _ => read_fillStores_beyond hs.fbForm, rfl⟩

/-- Settles O38: the stores are one draw for each logical byte, numbered from the counter. -/
theorem rainbowDrawsEveryLogicalByte : Obligations.RainbowDrawsEveryLogicalByte := fun s hs =>
  ⟨_, exec_cmdRainbow hs.count.2,
    fun i => read_writeAll_of_lastStore hs.fbForm (lastStore_rainbowStores s.draws s.logicalBytes i), rfl⟩

/-! ### Every command -/

/-- Settles O29: the state each command leaves, row by row of R110's table. -/
theorem eachCommandSetsItsFlagOnly : Obligations.EachCommandSetsItsFlagOnly := by
  intro s c args hs hi
  obtain ⟨-, hc⟩ := hs.count
  cases c with
  | cShow => exact ⟨_, rfl, rfl, rfl, rfl⟩
  | cClear => exact ⟨_, exec_cmdClear hc, rfl, rfl, rfl⟩
  | cClearShow => exact ⟨_, exec_cmdClearShow hc, rfl, rfl, rfl⟩
  | cCopyAll => exact ⟨_, exec_cmdCopyAll (hi rfl), rfl, rfl, rfl⟩
  | cSetLedCount => exact ⟨_, rfl, rfl, rfl, rfl⟩
  | cSetPixelType => exact ⟨_, rfl, rfl, rfl, rfl⟩
  | cSetBusAddr => exact ⟨_, rfl, rfl, rfl, rfl⟩
  | cSetDefaultFromIndex => exact ⟨_, exec_cmdSetDefaultFromIndex hc (hi rfl), rfl, rfl, rfl⟩
  | cSetLedColor => exact ⟨_, exec_cmdSetLedColor hc (hi rfl), rfl, rfl, rfl⟩
  | cSetAllColor => exact ⟨_, exec_cmdSetAllColor hc, rfl, rfl, rfl⟩
  | cSetDefaultColor => exact ⟨_, rfl, rfl, rfl, rfl⟩
  | cPower =>
    by_cases hv : argByte args 0 = 0
    · have hf : commandFlag .cPower args = none := if_pos hv
      exact ⟨_, exec_cmdPower_off hv, by rw [hf]; rfl, rfl, rfl⟩
    · have hf : commandFlag .cPower args = some .settle := if_neg hv
      exact ⟨_, exec_cmdPower_on hv, by rw [hf]; rfl, rfl, rfl⟩
  | cRainbow => exact ⟨_, exec_cmdRainbow hc, rfl, rfl, rfl⟩
  | cDeviceReset => exact ⟨_, rfl, rfl, rfl, rfl⟩

/-- Settles O27: the code is found and the arity check passes, so the dispatcher is the command, and the command completes. -/
theorem dispatcherRunsTheCommand : Obligations.DispatcherRunsTheCommand := by
  intro s c args hs ha
  have hd := exec_cmdWrite_of_arity_le (CmdCodes.find_code (Params.wf_codes hs.params) c) ha
  refine ⟨hd, fun hi => ?_⟩
  obtain ⟨t, ht, -, hptr⟩ := eachCommandSetsItsFlagOnly s c args hs hi
  exact ⟨t, hd.trans ht, ht, hptr⟩

end Sys2Proof.Machine

/-! PROOFS. The deferred-work control FSM (R113 to R124, R128 to R132): where a step is refused, one equation for each kind of turn
CTRL can take, and the services as runs of turns. -/

namespace Sys2Proof.Machine

variable {s : State} {f : Flag} {rest : List Input}

/-! ### Refused steps -/

theorem takeBusEvent_too_long {T : List Byte} (hT : s.par.maxTxnLen < T.length) :
    takeBusEvent (.write T) s = .refused .txnTooLong := by
  have hd : decode s.ctx (.write T) = .error .txnTooLong := if_neg (Nat.not_le.2 hT)
  rw [takeBusEvent, hd]

/-- Settles O8: `step` looks at `CTRL`, then at the parameters, and only then at the length of the transaction. -/
theorem refusalsOfTheStep : Obligations.RefusalsOfTheStep := by
  refine fun s => ⟨fun hj => if_pos hj, fun hj hp => ?_, fun T rest hj hp hin hT => ?_⟩
  · rw [step, if_neg hj, hp, if_neg Bool.false_ne_true]
  · exact (step_cons hp hj hin).trans (takeBusEvent_too_long hT)

/-! ### A scheduled turn of CTRL -/

theorem step_ctrl (hp : s.par.wf = true) (hj : s.ctrl ≠ .jumped) (hin : s.inputs = .ctrl f :: rest) :
    step s = ctrlStep f { s with inputs := rest } := step_cons hp hj hin

/-- In `READY` the turn starts the service of the pending flag it picks (R116). -/
theorem step_start (hp : s.par.wf = true) (hr : s.ctrl = .ready) (hf : s.dfr.get f = true)
    (hin : s.inputs = .ctrl f :: rest) : step s = startService f { s with inputs := rest } := by
  rw [step_ctrl hp (by simp [hr]) hin]
  simp only [ctrlStep, hr, if_pos hf]

/-- Settles O44: without a step of CTRL the turn only takes the entry. -/
theorem ctrlWithoutAStepDoesNothing : Obligations.CtrlWithoutAStepDoesNothing := by
  rintro s f rest hp hin (hh | ⟨hr, hf⟩)
  · rw [step_ctrl hp (by simp [hh]) hin]
    simp only [ctrlStep, ctrlContinue, hh]
  · rw [step_ctrl hp (by simp [hr]) hin]
    simp [ctrlStep, hr, hf]

/-! ### Service starts -/

/-- What the start of a render leaves (R118, R130). -/
def State.renderStarted (s : State) : State :=
  { s with ctrl := .renderBusy, trace := s.trace ++ [.wdtKick, .commit s.logicalFrame s.cfgPtype] }

/-- What the start of a copy leaves (R120, R130). -/
def State.copyStarted (s : State) : State :=
  { s with
    fillColor := pixelRead s.fmt s.fb s.copyIdx.toNat
    fillN := s.cfgCount
    fillI := 0
    ctrl := .copyFill
    trace := s.trace ++ [.wdtKick] }

/-- What the start of a settle wait leaves (R123, R130). -/
def State.settleStarted (s : State) : State := { s with ctrl := .settleWait, trace := s.trace ++ [.wdtKick] }

/-- What the start of a persist leaves (R125, R130). -/
def State.persistStarted (s : State) : State :=
  { s with nvImg := s.nvImage, nvK := 0, ctrl := .persistWrite, trace := s.trace ++ [.wdtKick] }

theorem startService_render (hc : s.cfgCount.toNat ≤ s.par.maxLeds) : startService .render s = .next s.renderStarted := by
  have inside : ∀ i ∈ List.range s.logicalBytes, i < s.par.fbBytes := fun i hi =>
    (List.mem_range.1 hi).trans_le (State.logicalBytes_le_fbBytes hc)
  refine (fbLoad_of_range (s := s.emit .wdtKick) inside).trans ?_
  rw [State.renderStarted, List.append_cons]
  rfl

theorem startService_copy (hi : s.copyIdx.toNat < s.par.maxLeds) : startService .copy s = .next s.copyStarted :=
  fbLoad_of_range (s := s.emit .wdtKick) (pixelIndices_range hi)

theorem startService_settle (s : State) : startService .settle s = .next s.settleStarted := rfl

theorem startService_persist (s : State) : startService .persist s = .next s.persistStarted := rfl

theorem startService_reset (s : State) :
    startService .reset s =
      .next { s with
        dfr := s.dfr.put .reset false
        wdtMode := .shortArmed
        ctrl := .halt
        trace := s.trace ++ [.wdtKick, .wdtArmShort] } := by
  rw [List.append_cons]
  rfl

theorem startService_boot (s : State) :
    startService .boot s =
      .next { s with dfr := s.dfr.put .boot false, ctrl := .jumped, trace := s.trace ++ [.wdtKick, .bootJump] } := by
  rw [List.append_cons]
  rfl

/-- Settles O43: the picked flag's service starts after the kick; the two services of one step clear their own flag. -/
theorem anyPendingFlagMayBeServicedNext : Obligations.AnyPendingFlagMayBeServicedNext := by
  intro s f rest hs hr hf hin
  rw [step_start hs.params hr hf hin]
  have cleared : ∀ g, g ≠ f → (s.dfr.put f false).get g = s.dfr.get g := fun g hg => by rw [Dfr.get_put, if_neg hg]
  have kicked : ∀ e : Event, s.trace ++ [.wdtKick] <+: s.trace ++ [.wdtKick, e] := fun e => ⟨[e], by simp⟩
  cases f with
  | render =>
    exact ⟨_, startService_render hs.count.2, kicked _, rfl, fun _ _ => rfl,
      fun _ => ⟨rfl, hf⟩, nofun, nofun, nofun, nofun, nofun⟩
  | copy =>
    exact ⟨_, startService_copy hs.copyIdx, List.prefix_rfl, rfl, fun _ _ => rfl,
      nofun, fun _ => ⟨rfl, hf⟩, nofun, nofun, nofun, nofun⟩
  | settle =>
    exact ⟨_, startService_settle _, List.prefix_rfl, rfl, fun _ _ => rfl,
      nofun, nofun, fun _ => ⟨rfl, hf⟩, nofun, nofun, nofun⟩
  | persist =>
    exact ⟨_, startService_persist _, List.prefix_rfl, rfl, fun _ _ => rfl,
      nofun, nofun, nofun, fun _ => ⟨rfl, hf⟩, nofun, nofun⟩
  | reset =>
    exact ⟨_, startService_reset _, kicked _, rfl, cleared, nofun, nofun, nofun, nofun, fun _ => ⟨rfl, rfl⟩, nofun⟩
  | boot =>
    exact ⟨_, startService_boot _, kicked _, rfl, cleared, nofun, nofun, nofun, nofun, nofun, fun _ => ⟨rfl, rfl⟩⟩

/-- Settles O52: both services are one step. -/
theorem resetAndBootServices : Obligations.ResetAndBootServices := fun _ _ hp hr =>
  ⟨fun hf hin => (step_start (f := .reset) hp hr hf hin).trans (startService_reset _),
    fun hf hin => (step_start (f := .boot) hp hr hf hin).trans (startService_boot _)⟩

/-! ### Turns inside a service -/

theorem ctrlContinue_renderBusy (hc : s.ctrl = .renderBusy) : ctrlContinue s = renderDone s := by rw [ctrlContinue, hc]

theorem ctrlContinue_copyFill (hc : s.ctrl = .copyFill) : ctrlContinue s = copyFillStep s := by rw [ctrlContinue, hc]

theorem ctrlContinue_settleWait (hc : s.ctrl = .settleWait) : ctrlContinue s = settleDone s := by rw [ctrlContinue, hc]

theorem ctrlContinue_persistWrite (hc : s.ctrl = .persistWrite) : ctrlContinue s = persistStep s := by rw [ctrlContinue, hc]

/-- The persist service's ten writes in order (R126). -/
def recordWrites (p : Params) (img : NvRecord) : List (NvField × Byte) :=
  [(.magic, p.cfgMagic ^^^ 0xFF), (.busAddr, img.busAddr), (.ptypeHi, img.ptypeHi), (.ptypeLo, img.ptypeLo), (.count, img.count),
    (.r, img.r), (.g, img.g), (.b, img.b), (.w, img.w), (.magic, img.magic)]

theorem persistWriteAt_eq_getElem? (p : Params) (img : NvRecord) (k : BitVec 4) :
    persistWriteAt p img k = (recordWrites p img)[k.toNat]? := by
  rcases Nat.lt_or_ge k.toNat 10 with hk | hk
  · simp only [persistWriteAt]
    interval_cases k.toNat <;> rfl
  · rw [persistWriteAt_eq_none.2 hk, List.getElem?_eq_none hk]

section Continuing

variable (hp : s.par.wf = true) (hm : s.ctrlMoves)
include hp hm

theorem step_renderBusy (hc : s.ctrl = .renderBusy) :
    step s = .next { s with dfr := s.dfr.put .render false, ctrl := .ready, inputs := s.inputs.tail } :=
  (step_of_ctrlMoves hp hm (by simp [hc]) (by simp [hc])).trans (ctrlContinue_renderBusy hc)

theorem step_settleWait (hc : s.ctrl = .settleWait) :
    step s =
      .next { s with
        dfr := (s.dfr.put .render true).put .settle false
        ctrl := .ready
        inputs := s.inputs.tail } :=
  (step_of_ctrlMoves hp hm (by simp [hc]) (by simp [hc])).trans (ctrlContinue_settleWait hc)

/-- A turn of the fill writes pixel `FILL_I` and moves on (R121). -/
theorem step_copyFill (hc : s.ctrl = .copyFill) (hi : s.fillI.toNat < s.fillN.toNat) (hn : s.fillN.toNat ≤ s.par.maxLeds) :
    step s =
      .next { s with
        fb := Memory.writeAll s.fb (pixelStores s.fmt s.fillI.toNat s.fillColor)
        fillI := s.fillI + 1
        inputs := s.inputs.tail } := by
  rw [step_of_ctrlMoves hp hm (by simp [hc]) (by simp [hc])]
  refine (ctrlContinue_copyFill (s := { s with inputs := s.inputs.tail }) hc).trans ?_
  exact (if_pos hi).trans (fbStore_of_range (s := { s with inputs := s.inputs.tail }) (pixelStores_range (hi.trans_le hn)))

/-- The turn at the latched count ends the fill (R122). -/
theorem step_copyFill_done (hc : s.ctrl = .copyFill) (hi : s.fillI = s.fillN) :
    step s = .next { s with dfr := s.dfr.put .copy false, ctrl := .ready, inputs := s.inputs.tail } := by
  rw [step_of_ctrlMoves hp hm (by simp [hc]) (by simp [hc])]
  refine (ctrlContinue_copyFill (s := { s with inputs := s.inputs.tail }) hc).trans ?_
  exact (if_neg (by simp [hi])).trans (if_pos hi)

/-- A turn of the persist service performs the write `NV_K` counts and moves on (R126). -/
theorem step_persistWrite {w : NvField × Byte} (hc : s.ctrl = .persistWrite)
    (hw : (recordWrites s.par s.nvImg)[s.nvK.toNat]? = some w) :
    step s = .next { s.nvWrite w.1 w.2 with nvK := s.nvK + 1, inputs := s.inputs.tail } := by
  rw [step_of_ctrlMoves hp hm (by simp [hc]) (by simp [hc])]
  refine (ctrlContinue_persistWrite (s := { s with inputs := s.inputs.tail }) hc).trans ?_
  rw [← persistWriteAt_eq_getElem?] at hw
  rw [persistStep, hw]
  rfl

/-- The turn after the tenth write enters `HALT` (R127, R131). -/
theorem step_persistWrite_done (hc : s.ctrl = .persistWrite) (hk : s.nvK = 10) :
    step s =
      .next { s with
        dfr := s.dfr.put .persist false
        wdtMode := .shortArmed
        ctrl := .halt
        inputs := s.inputs.tail
        trace := s.trace ++ [.wdtArmShort] } := by
  rw [step_of_ctrlMoves hp hm (by simp [hc]) (by simp [hc])]
  refine (ctrlContinue_persistWrite (s := { s with inputs := s.inputs.tail }) hc).trans ?_
  rw [persistStep, persistWriteAt_eq_none.2 (by simp [hk])]
  exact if_pos hk

end Continuing

/-- Turns in a row, where `σ k rest` is the state after `k` of them with `rest` still scheduled. -/
theorem run_turns {σ : Nat → List Input → State} {n : Nat}
    (hstep : ∀ k < n, ∀ rest, step (σ k (.ctrl f :: rest)) = .next (σ (k + 1) rest)) :
    run n (σ 0 (List.replicate n (.ctrl f) ++ rest)) = .next (σ n rest) := by
  induction n generalizing rest with
  | zero => rfl
  | succ n ih =>
    rw [List.replicate_succ', List.append_assoc]
    exact (run_append n 1 (ih fun k hk => hstep k (hk.trans n.lt_succ_self))).trans (run_step (hstep n n.lt_succ_self rest))

/-! ### Services of two turns -/

/-- Settles O45: the commit is the start's, and the next turn ends the service. -/
theorem renderServiceCommitsOnce : Obligations.RenderServiceCommitsOnce := by
  intro s f rest hs hr hf hin
  have start := (step_start (f := .render) hs.params hr hf hin).trans (startService_render hs.count.2)
  have finish := step_renderBusy (s := State.renderStarted { s with inputs := .ctrl f :: rest }) hs.params
    (.inl ⟨f, rest, rfl⟩) rfl
  exact (run_step start).trans ((run_step finish).trans (by rw [hr]; rfl))

/-- Settles O48: the start only waits, and the next turn trades `SETTLE` for `RENDER`. -/
theorem settleServiceRequestsARender : Obligations.SettleServiceRequestsARender := by
  intro s f rest hp hr hf hin
  have start := (step_start (f := .settle) hp hr hf hin).trans (startService_settle _)
  have finish := step_settleWait (s := State.settleStarted { s with inputs := .ctrl f :: rest }) hp (.inl ⟨f, rest, rfl⟩) rfl
  exact ⟨run_step start, (run_step start).trans ((run_step finish).trans (by rw [hr]; rfl))⟩

/-! ### The copy service -/

theorem toNat_add_one_of_lt {n : Nat} {a b : BitVec (n + 1)} (h : a.toNat < b.toNat) : (a + 1).toNat = a.toNat + 1 := by
  have hone : (1 : BitVec (n + 1)).toNat = 1 := Nat.mod_eq_of_lt (Nat.one_lt_two_pow n.succ_ne_zero)
  rw [BitVec.toNat_add, hone]
  exact Nat.mod_eq_of_lt (Nat.lt_of_le_of_lt h b.isLt)

/-- What `k` fill steps from pixel 0 on leave. -/
def State.filled (s : State) (k : Nat) (rest : List Input) : State :=
  { s with fb := Memory.writeAll s.fb (fillStores s.fmt k s.fillColor), fillI := BitVec.ofNat 8 k, inputs := rest }

theorem State.fillI_filled {k : Nat} (hk : k < 256) : (s.filled k rest).fillI.toNat = k := Nat.mod_eq_of_lt hk

theorem step_filled {k : Nat} (hp : s.par.wf = true) (hc : s.ctrl = .copyFill) (hn : s.fillN.toNat ≤ s.par.maxLeds)
    (hk : k < s.fillN.toNat) : step (s.filled k (.ctrl f :: rest)) = .next (s.filled (k + 1) rest) := by
  have hi : (s.filled k (.ctrl f :: rest)).fillI.toNat = k := State.fillI_filled (hk.trans s.fillN.isLt)
  rw [step_copyFill (s := s.filled k (.ctrl f :: rest)) hp (.inl ⟨f, rest, rfl⟩) hc (hi.trans_lt hk) hn, hi, State.filled,
    State.filled, fillStores_succ, Memory.writeAll_append, BitVec.ofNat_add]
  rfl

/-- Settles O47: the start latches the colour and the count, the fill steps store pixel by pixel, and one more turn ends it. -/
theorem copyServiceFillsEveryLogicalPixel : Obligations.CopyServiceFillsEveryLogicalPixel := by
  refine ⟨fun s rest hs hr hf hin => ?_, fun s hs hc hm => ⟨fun hi => ?_, step_copyFill_done hs.params hm hc⟩⟩
  · rw [List.replicate_succ, List.cons_append, List.replicate_succ', List.append_assoc] at hin
    have start : step s = .next (s.copyStarted.filled 0 _) :=
      (step_start (f := .copy) hs.params hr hf hin).trans (startService_copy hs.copyIdx)
    have filled := run_turns (σ := s.copyStarted.filled) (f := .copy) (rest := .ctrl .copy :: rest) fun k hk _ =>
      step_filled (k := k) hs.params rfl hs.count.2 hk
    have finish := step_copyFill_done (s := s.copyStarted.filled s.cfgCount.toNat (.ctrl .copy :: rest)) hs.params
      (.inl ⟨.copy, rest, rfl⟩) rfl (BitVec.ofNat_toNat 8 s.cfgCount)
    refine ⟨_, (run_step start).trans ((run_append _ 1 filled).trans (run_step finish)), Memory.read_writeAll hs.fbForm _, ?_⟩
    simp only [State.filled, BitVec.ofNat_toNat, BitVec.setWidth_eq, hr]
    rfl
  · obtain ⟨-, -, hn⟩ := hs.fill hc
    exact ⟨_, step_copyFill hs.params hm hc hi hn, Memory.read_writeAll hs.fbForm _, toNat_add_one_of_lt hi, rfl⟩

end Sys2Proof.Machine

/-! PROOFS. The persist service as a run of turns (R125 to R127), and what boot makes of the record it leaves, whole or cut short
(R155 to R157, R165). -/

namespace Sys2Proof.Machine

variable {s : State} {f : Flag} {rest : List Input}

/-! ### The persist service -/

theorem extractLsb'_hi (x : BitVec 16) : x.extractLsb' 8 8 = BitVec.ofNat 8 (x.toNat / 256) := by
  rw [BitVec.extractLsb', Nat.shiftRight_eq_div_pow]

theorem extractLsb'_lo (x : BitVec 16) : x.extractLsb' 0 8 = BitVec.ofNat 8 x.toNat := rfl

/-- What the first `n` byte steps leave (R126). -/
def State.recorded (s : State) (n : Nat) (rest : List Input) : State :=
  { s with
    nv := ((recordWrites s.par s.nvImg).take n).foldl (fun r w => r.set w.1 w.2) s.nv
    nvK := BitVec.ofNat 4 n
    inputs := rest
    trace := s.trace ++ ((recordWrites s.par s.nvImg).take n).map fun w => .nvWrite (s.par.nvBase + w.1.offset) w.2 }

theorem step_recorded {n : Nat} (hp : s.par.wf = true) (hc : s.ctrl = .persistWrite) (hn : n < 10) :
    step (s.recorded n (.ctrl f :: rest)) = .next (s.recorded (n + 1) rest) := by
  obtain ⟨w, hw⟩ : ∃ w, (recordWrites s.par s.nvImg)[n]? = some w := ⟨_, List.getElem?_eq_getElem hn⟩
  have hk : (BitVec.ofNat 4 n).toNat = n := Nat.mod_eq_of_lt (hn.trans (by decide))
  rw [step_persistWrite (s := s.recorded n (.ctrl f :: rest)) hp (.inl ⟨f, rest, rfl⟩) hc (hk.symm ▸ hw)]
  simp only [State.recorded, List.take_add_one, hw, Option.toList_some, List.foldl_append, List.map_append, ← List.append_assoc,
    BitVec.ofNat_add]
  rfl

/-- Settles O49: the start takes the snapshot, ten byte steps write every field of the record, and one more turn enters `HALT`. -/
theorem persistServiceWritesTheRecord : Obligations.PersistServiceWritesTheRecord := by
  intro s rest hp hr hf hin
  have start : step s = .next (s.persistStarted.recorded 0 (List.replicate 10 (.ctrl .persist) ++ .ctrl .persist :: rest)) := by
    rw [step_start (f := .persist) hp hr hf hin, startService_persist]
    simp only [State.recorded, List.take_zero, List.map_nil, List.append_nil]
    rfl
  have written := run_turns (σ := s.persistStarted.recorded) (f := .persist) (rest := .ctrl .persist :: rest) fun k hk _ =>
    step_recorded (n := k) hp rfl hk
  have finish := step_persistWrite_done (s := s.persistStarted.recorded 10 (.ctrl .persist :: rest)) hp
    (.inl ⟨.persist, rest, rfl⟩) rfl rfl
  refine (run_step start).trans ((run_append 10 1 written).trans ((run_step finish).trans ?_))
  rw [← extractLsb'_hi, ← extractLsb'_lo]
  simp only [State.recorded, State.persistStarted, List.append_assoc]
  rfl

/-! ### What a reset loads -/

/-- The configuration mirror (R13 to R16). -/
def State.mirror (s : State) : Byte × BitVec 16 × Byte × Color := (s.cfgBusAddr, s.cfgPtype, s.cfgCount, s.cfgDefColor)

/-- The mirror boot makes of a record (R156, R157). -/
def bootMirror (p : Params) (n : NvRecord) : Byte × BitVec 16 × Byte × Color :=
  if n.magic = p.cfgMagic then (n.busAddr, n.ptypeHi ++ n.ptypeLo, clampCount p n.count, ⟨n.r, n.g, n.b, n.w⟩)
  else (p.defBusAddr, p.defPixelType, p.defLedCount, p.defColor)

theorem State.mirror_loadConfig (s : State) : s.loadConfig.mirror = bootMirror s.par s.nv := by
  unfold State.loadConfig bootMirror
  split
  · rfl
  · rfl

/-- A scheduled reset leaves the record, `READY`, the watchdog unarmed, and the mirror boot makes of the record (R153, R156, R159,
R160). -/
theorem step_reset_mirror (hp : s.par.wf = true) (hj : s.ctrl ≠ .jumped) (hin : s.inputs = .reset :: rest) :
    ∃ t, step s = .next t ∧ t.nv = s.nv ∧ t.ctrl = .ready ∧ t.wdtMode = .normal ∧ t.mirror = bootMirror s.par s.nv :=
  ⟨_, (step_cons hp hj hin).trans (resetStep_of_wf hp), State.nv_loadConfig _, rfl, rfl, State.mirror_loadConfig _⟩

theorem clampCount_of_bounds {p : Params} {v : Byte} (hp : p.maxLeds ≤ 252) (hv : 1 ≤ v.toNat ∧ v.toNat ≤ p.maxLeds) :
    clampCount p v = v := by
  apply BitVec.eq_of_toNat_eq
  rw [clampCount_toNat hp]
  omega

theorem append_extractLsb'_bytes (x : BitVec 16) : x.extractLsb' 8 8 ++ x.extractLsb' 0 8 = x :=
  (BitVec.extractLsb'_append_extractLsb'_eq_extractLsb' (start₁ := 0) (len₁ := 8) rfl).trans BitVec.extractLsb'_eq_self

/-- The image of a mirror with a count the block can hold boots as that mirror (R50, R157). -/
theorem bootMirror_nvImage (hp : s.par.maxLeds ≤ 252) (hc : 1 ≤ s.cfgCount.toNat ∧ s.cfgCount.toNat ≤ s.par.maxLeds) :
    bootMirror s.par s.nvImage = s.mirror := by
  simp only [bootMirror, State.nvImage, if_true, append_extractLsb'_bytes, clampCount_of_bounds hp hc]
  rfl

/-- Settles O50: the record the service leaves is the image of the mirror, which boots as the mirror. -/
theorem persistedConfigurationLoadsBack : Obligations.PersistedConfigurationLoadsBack := by
  intro s rest hs hr hf hin
  obtain ⟨u, hrun, hpar, hnv, hhalt, hinu⟩ : ∃ u, run 12 s = .next u ∧ u.par = s.par ∧ u.nv = s.nvImage ∧ u.ctrl = .halt ∧
      u.inputs = .reset :: rest := ⟨_, persistServiceWritesTheRecord s _ hs.params hr hf hin, rfl, rfl, rfl, rfl⟩
  obtain ⟨t, ht, -, hready, hwdt, hmirror⟩ := step_reset_mirror (hpar ▸ hs.params) (by simp [hhalt]) hinu
  rw [hpar, hnv, bootMirror_nvImage (Params.wf_bounds hs.params).1.2 hs.count] at hmirror
  simp only [State.mirror, Prod.mk.injEq] at hmirror
  obtain ⟨hbus, hptype, hcount, hcolor⟩ := hmirror
  exact ⟨t, (run_append 12 1 hrun).trans (run_step ht), hbus, hptype, hcount, hcolor, hready, hwdt⟩

/-- The byte that invalidates the record is not the magic byte (R126). -/
theorem xor_ff_ne (x : Byte) : x ^^^ 0xFF ≠ x := by simp

/-- Settles O51: byte 0 is invalid between the first write and the last, and after the last the record is the snapshot. -/
theorem tornRecordIsNeverTrusted : Obligations.TornRecordIsNeverTrusted := by
  intro s rest hs hc hin
  obtain ⟨-, himg, hinvalid, -, hwhole⟩ := hs.persist hc
  obtain ⟨t, ht, hnv, -, -, hmirror⟩ := step_reset_mirror hs.params (by simp [hc]) hin
  refine ⟨t, ht, hnv, fun h1 h9 => ?_, fun h10 => ?_⟩
  · have untrusted : s.nv.magic ≠ s.par.cfgMagic := (hinvalid h1 h9).trans_ne (xor_ff_ne _)
    simpa only [State.mirror, bootMirror, if_neg untrusted, Prod.mk.injEq] using hmirror
  · simpa only [State.mirror, bootMirror, hwhole h10, if_pos himg, Prod.mk.injEq] using hmirror

end Sys2Proof.Machine

/-! PROOFS. A block with nothing scheduled comes to rest (R117, R133): a bound on the work it has left, which every step lowers. -/

namespace Sys2Proof.Machine

variable {s : State} {f : Flag}

/-! ### The work left -/

/-- The steps a pending flag may still cost: those of its service, and after a persist or a reset also the reset step and the
render it requests. -/
def Flag.cost : Flag → Nat
  | .render => 2
  | .copy => 254
  | .persist => 15
  | .settle => 4
  | .reset => 4
  | .boot => 1

/-- The steps the pending flags may cost together. -/
def Dfr.cost (d : Dfr) : Nat :=
  Flag.render.cost * d.render.toNat + Flag.copy.cost * d.copy.toNat + Flag.persist.cost * d.persist.toNat +
    Flag.settle.cost * d.settle.toNat + Flag.reset.cost * d.reset.toNat + Flag.boot.cost * d.boot.toNat

theorem Dfr.cost_le (d : Dfr) : d.cost ≤ 280 := by
  simp only [Dfr.cost, Flag.cost]
  linarith [d.render.toNat_le, d.copy.toNat_le, d.persist.toNat_le, d.settle.toNat_le, d.reset.toNat_le, d.boot.toNat_le]

theorem Dfr.cost_put (d : Dfr) (f : Flag) (v : Bool) :
    (d.put f v).cost + f.cost * (d.get f).toNat = d.cost + f.cost * v.toNat := by
  cases f <;> simp only [Dfr.cost, Dfr.put, Dfr.get] <;> omega

theorem Dfr.cost_clear {d : Dfr} (h : d.get f = true) : (d.put f false).cost + f.cost = d.cost := by
  simpa [h] using d.cost_put f false

/-- The render a settle wait requests costs at most a render more (R124). -/
theorem Dfr.cost_settled (d : Dfr) : ((d.put .render true).put .settle false).cost ≤ (d.put .settle false).cost + 2 := by
  have h := (d.put .settle false).cost_put .render true
  exact Nat.le_of_add_right_le h.le

/-- A bound on the steps a block without a schedule takes until it rests. -/
def State.quietCost (s : State) : Nat :=
  match s.ctrl with
  | .ready => s.dfr.cost
  | .renderBusy => (s.dfr.put .render false).cost + 1
  | .copyFill => (s.dfr.put .copy false).cost + (s.fillN.toNat - s.fillI.toNat) + 1
  | .settleWait => (s.dfr.put .settle false).cost + 3
  | .persistWrite => 14 - s.nvK.toNat
  | .halt => 3
  | .jumped => 0

theorem Safe.quietCost_le (hs : Safe s) : s.quietCost ≤ 300 := by
  have hmax := (Params.wf_bounds hs.params).1.2
  have hall := s.dfr.cost_le
  obtain ⟨hrender, hcopy, hsettle, -⟩ := hs.busy
  unfold State.quietCost
  split
  case h_1 | h_5 | h_6 | h_7 => omega
  case h_2 hc =>
    have := Dfr.cost_clear (f := .render) (hrender hc)
    omega
  case h_3 hc =>
    have hn := (hs.fill hc).2.2
    have : _ + 254 = _ := Dfr.cost_clear (f := .copy) (hcopy hc)
    omega
  case h_4 hc =>
    have := Dfr.cost_clear (f := .settle) (hsettle hc)
    omega

/-- The service of a pending flag starts, and leaves less to do than what the pending flags were counted for. -/
theorem startService_quietCost (hp : s.par.wf = true) (hc : s.cfgCount.toNat ≤ s.par.maxLeds)
    (hi : s.copyIdx.toNat < s.par.maxLeds) (hf : s.dfr.get f = true) :
    ∃ t, startService f s = .next t ∧ t.inputs = s.inputs ∧ t.quietCost < s.dfr.cost := by
  have hmax := (Params.wf_bounds hp).1.2
  have cleared := Dfr.cost_clear hf
  have pending : f.cost ≤ s.dfr.cost := Nat.le_of_add_left_le cleared.le
  cases f with
  | render => exact ⟨_, startService_render hc, rfl, cleared.le⟩
  | copy =>
    refine ⟨_, startService_copy hi, rfl, ?_⟩
    show (s.dfr.put .copy false).cost + s.cfgCount.toNat + 1 < _
    simp only [Flag.cost] at cleared
    omega
  | settle => exact ⟨_, startService_settle s, rfl, cleared.le⟩
  | persist => exact ⟨_, startService_persist s, rfl, pending⟩
  | reset => exact ⟨_, startService_reset s, rfl, pending⟩
  | boot => exact ⟨_, startService_boot s, rfl, pending⟩

/-- With an empty schedule and a flag pending, CTRL starts the service of one that is (R116, log 5). -/
theorem quietStep_start (hr : s.ctrl = .ready) (hd : s.dfr ≠ Dfr.none) :
    ∃ n f, s.dfr.get f = true ∧ quietStep s = startService f (s.tookDraws n) := by
  simp only [quietStep, hr, ← Dfr.mem_pending]
  split
  · next hp => exact absurd (s.dfr.pending_eq_nil.1 hp) hd
  · next f hp => exact ⟨0, f, by simp [hp], rfl⟩
  · next f rest _ hp =>
    refine ⟨1, _, ?_, rfl⟩
    have hlt : Config.serviceChoice s.draws % (rest.length + 1) < (f :: rest).length := Nat.mod_lt _ (Nat.succ_pos _)
    rw [hp, List.getD_eq_getElem _ _ hlt]
    exact List.getElem_mem hlt

/-- CTRL has handed control over, or is idle with no flag pending. -/
def State.atRest (s : State) : Prop := s.ctrl = .jumped ∨ s.ctrl = .ready ∧ s.dfr = Dfr.none

/-- The next step of a quiet block lowers the bound on its work. -/
def State.progresses (s : State) : Prop := ∃ t, step s = .next t ∧ t.inputs = [] ∧ t.quietCost < s.quietCost

/-! ### Every step lowers the bound -/

section Quiet

variable (hs : Safe s) (hin : s.inputs = [])
include hs hin

theorem progresses_ready (hc : s.ctrl = .ready) (hd : s.dfr ≠ Dfr.none) : s.progresses := by
  obtain ⟨n, f, hf, hstart⟩ := quietStep_start hc hd
  obtain ⟨t, ht, hint, hlt⟩ := startService_quietCost (s := s.tookDraws n) hs.params hs.count.2 hs.copyIdx hf
  have hcost : s.quietCost = s.dfr.cost := by rw [State.quietCost, hc]
  exact ⟨t, (step_nil hs.params (by simp [hc]) hin).trans (hstart.trans ht), hint.trans hin, hcost ▸ hlt⟩

theorem progresses_renderBusy (hc : s.ctrl = .renderBusy) : s.progresses := by
  refine ⟨_, step_renderBusy hs.params (.inr ⟨hin, by simp [hc]⟩) hc, congrArg List.tail hin, ?_⟩
  simp only [State.quietCost, hc]
  omega

theorem progresses_copyFill (hc : s.ctrl = .copyFill) : s.progresses := by
  have hm : s.ctrlMoves := .inr ⟨hin, by simp [hc]⟩
  obtain ⟨hle, -, hn⟩ := hs.fill hc
  rcases Nat.lt_or_eq_of_le hle with hi | hi
  · refine ⟨_, step_copyFill hs.params hm hc hi hn, congrArg List.tail hin, ?_⟩
    simp only [State.quietCost, hc, toNat_add_one_of_lt hi]
    omega
  · refine ⟨_, step_copyFill_done hs.params hm hc (BitVec.eq_of_toNat_eq hi), congrArg List.tail hin, ?_⟩
    simp only [State.quietCost, hc]
    omega

theorem progresses_settleWait (hc : s.ctrl = .settleWait) : s.progresses := by
  refine ⟨_, step_settleWait hs.params (.inr ⟨hin, by simp [hc]⟩) hc, congrArg List.tail hin, ?_⟩
  have settled := s.dfr.cost_settled
  simp only [State.quietCost, hc]
  omega

theorem progresses_persistWrite (hc : s.ctrl = .persistWrite) : s.progresses := by
  have hm : s.ctrlMoves := .inr ⟨hin, by simp [hc]⟩
  obtain ⟨hle, -⟩ := hs.persist hc
  rcases Nat.lt_or_eq_of_le hle with hk | hk
  · refine ⟨_, step_persistWrite hs.params hm hc (List.getElem?_eq_getElem hk), congrArg List.tail hin, ?_⟩
    have hk1 : (s.nvK + 1).toNat = s.nvK.toNat + 1 := toNat_add_one_of_lt (hk.trans_le (by decide : 10 ≤ (10 : BitVec 4).toNat))
    simp only [State.quietCost, State.ctrl_nvWrite, hc, hk1]
    omega
  · refine ⟨_, step_persistWrite_done hs.params hm hc (BitVec.eq_of_toNat_eq hk), congrArg List.tail hin, ?_⟩
    simp only [State.quietCost, hc, hk]
    omega

/-- In `HALT` the watchdog expires, and what is left is the render the reset requests (R131, R159). -/
theorem progresses_halt (hc : s.ctrl = .halt) : s.progresses := by
  refine ⟨_, (step_of_resetMoves hs.params (.inr ⟨hc, hin⟩)).trans (resetStep_of_wf hs.params),
    (State.inputs_loadConfig _).trans (congrArg List.tail hin), ?_⟩
  have hcost : s.quietCost = 3 := by rw [State.quietCost, hc]
  exact hcost ▸ Nat.lt_succ_self 2

theorem progresses_of_not_atRest (hrest : ¬ s.atRest) : s.progresses := by
  cases hc : s.ctrl with
  | ready => exact progresses_ready hs hin hc fun hd => hrest (.inr ⟨hc, hd⟩)
  | renderBusy => exact progresses_renderBusy hs hin hc
  | copyFill => exact progresses_copyFill hs hin hc
  | settleWait => exact progresses_settleWait hs hin hc
  | persistWrite => exact progresses_persistWrite hs hin hc
  | halt => exact progresses_halt hs hin hc
  | jumped => exact absurd (.inl hc) hrest

/-- The bound on the work left bounds the steps to rest. -/
theorem run_to_rest (n : Nat) (hn : s.quietCost ≤ n) : ∃ k t, k ≤ n ∧ run k s = .next t ∧ t.atRest := by
  induction n generalizing s with
  | zero =>
    by_cases hrest : s.atRest
    · exact ⟨0, s, le_rfl, rfl, hrest⟩
    · obtain ⟨t, -, -, hlt⟩ := progresses_of_not_atRest hs hin hrest
      omega
  | succ n ih =>
    by_cases hrest : s.atRest
    · exact ⟨0, s, Nat.zero_le _, rfl, hrest⟩
    · obtain ⟨u, hu, hinu, hlt⟩ := progresses_of_not_atRest hs hin hrest
      obtain ⟨k, t, hk, hrun, ht⟩ := ih (stepKeepsSafe s u hs hu) hinu (by omega)
      exact ⟨k + 1, t, Nat.succ_le_succ hk, (run_step hu).trans hrun, ht⟩

end Quiet

/-- Settles O53: every step of a quiet block that is not at rest lowers the bound on its work. -/
theorem quietBlockComesToRest : Obligations.QuietBlockComesToRest := fun _ hs hin => run_to_rest hs hin 300 hs.quietCost_le

end Sys2Proof.Machine

/-! PROOFS. Dropped events and answered reads (R136 to R138): the reasons a drop records, and the byte every read request returns. -/

namespace Sys2Proof.Machine

variable {s : State} {rest : List Input}

/-! ### Drops -/

theorem exec_cmdWrite_unknown {k : Byte} {args : List Byte} (hk : s.par.codes.find k = none) :
    exec (.cmdWrite k args) s = .next (s.emit (.drop .unknownCmd)) := by
  show execCmdWrite k args s = _
  simp only [execCmdWrite, hk, raiseDrop]

/-- Settles O20: every one of these rows ends in `raise Drop`, the index-taking commands through the dispatcher's index check. -/
theorem dropsOnlyRecordTheirReason : Obligations.DropsOnlyRecordTheirReason := fun _ =>
  ⟨rfl, fun _ _ h0 hled hd => onCondition_of ⟨h0, hled, hd⟩, fun _ _ => exec_cmdWrite_unknown, fun _ _ _ => exec_cmdWrite_short,
    fun _ _ _ _ _ hi => ⟨withIndex_of_ge hi, withIndex_of_ge hi, withIndex_of_ge hi⟩⟩

/-! ### Read requests -/

/-- A safe pointer stands at `RESP`, at a byte of a pixel or at a byte of a response sequence (R29), and the read at each of them returns
that byte and moves the pointer at most (R87 to R89). -/
theorem step_read (hs : Safe s) (hj : s.ctrl ≠ .jumped) (hin : s.inputs = .bus .read :: rest) :
    ∃ a c v, step s = .next (((s.busTaken .read rest).setPointer a c).emit (.readData v)) := by
  rcases s.pointerOk_iff.1 hs.pointer with ⟨ha, -⟩ | hv | hr
  · have hread : exec .readCmd (s.busTaken .read rest) = .next ((s.busTaken .read rest).emit (.readData s.resp)) := onCondition_of ha
    exact ⟨s.curAddr, s.cursor, s.resp, step_bus hs.params hj hin (congrArg _ (decodeRead_eq_readCmd ha)) hread⟩
  · exact ⟨_, _, _, step_readLed hs.params hs.count.2 hj hv hin⟩
  · have hresp : s.ctx.inResp = true := s.inResp_iff.2 hr
    have hread : exec .readBl (s.busTaken .read rest) = readBlAt (s.busTaken .read rest) := onCondition_of hresp
    exact ⟨_, _, _, step_bus hs.params hj hin (congrArg _ (decodeRead_eq_readBl hresp))
      (hread.trans (readBlAt_of_getElem? rfl (List.getElem?_eq_getElem hr)))⟩

/-- Settles O24: the request and the byte are the two events observed, and only the pointer of the block moves. -/
theorem everyReadRequestIsAnswered : Obligations.EveryReadRequestIsAnswered := by
  intro s rest hs hj hin
  obtain ⟨a, c, v, hstep⟩ := step_read hs hj hin
  exact ⟨_, v, hstep, List.append_assoc _ _ _, rfl⟩

end Sys2Proof.Machine

/-! PROOFS. The reset step (R153 to R160) as one equation, from which everything it leaves is read off, and a render requested while a
render is in progress (R163). -/

namespace Sys2Proof.Machine

variable {s : State} {c : Cmd} {rest : List Input}

/-! ### The reset step -/

/-- The block boot makes of a record: the mirror it loads, the default colour filled into a zero buffer, and the reset values (R156 to
R160). -/
def bootBlock (p : Params) (n : NvRecord) : Block :=
  let (busAddr, ptype, count, color) := bootMirror p n
  { cfgBusAddr := busAddr
    cfgPtype := ptype
    cfgCount := count
    cfgDefColor := color
    curAddr := 0
    cursor := 0
    resp := 0
    fb := Memory.writeAll [] (fillStores (p.pixelDecode.apply ptype) count.toNat color)
    dfr := ⟨true, false, false, false, false, false⟩
    copyIdx := 0
    ctrl := .ready
    fillI := 0
    fillN := 0
    fillColor := ⟨0, 0, 0, 0⟩
    nvK := 0
    nvImg := ⟨0, 0, 0, 0, 0, 0, 0, 0, 0⟩
    pwrOn := p.pwrOnReset
    nv := n
    wdtMode := .normal }

/-- The reset step replaces the block by one made of the parameters and the record alone (R153, R154), and observes the reset and the
record's reads (R155). -/
theorem resetStep_eq_bootBlock (hp : s.par.wf = true) :
    resetStep s = .next { s with toBlock := bootBlock s.par s.nv, trace := s.trace ++ .reset :: s.nvReads } := by
  rw [resetStep_of_wf hp]
  by_cases hm : s.nv.magic = s.par.cfgMagic
  · rw [State.loadConfig_of_magic, bootBlock, bootMirror, if_pos hm]
    · rfl
    · exact hm
  · rw [State.loadConfig_of_not_magic, bootBlock, bootMirror, if_neg hm]
    · rfl
    · exact hm

theorem step_reset (hp : s.par.wf = true) (hm : s.resetMoves) :
    step s =
      .next { s with
        toBlock := bootBlock s.par s.nv
        inputs := s.inputs.tail
        trace := s.trace ++ .reset :: s.nvReads } :=
  (step_of_resetMoves hp hm).trans (resetStep_eq_bootBlock (s := { s with inputs := s.inputs.tail }) hp)

/-- Settles O57: the mirror of the booted block is the record's or the defaults, as the magic byte says. -/
theorem resetLoadsTheRecordOrTheDefaults : Obligations.ResetLoadsTheRecordOrTheDefaults := by
  intro s hp hm
  obtain ⟨⟨-, hmax⟩, -⟩ := Params.wf_bounds hp
  refine ⟨_, step_reset hp hm, rfl, fun trusted => ?_, fun untrusted => ?_⟩
  · simp only [bootBlock, bootMirror, if_pos trusted, toNat_append_byte, clampCount_toNat hmax, and_self]
  · simp only [bootBlock, bootMirror, if_neg untrusted, and_self]

/-- Settles O58: the buffer is a fill of an empty one, and every other element stands in `bootBlock` as R159 gives it. -/
theorem resetInitialisesEveryOtherElement : Obligations.ResetInitialisesEveryOtherElement := fun _ hp hm =>
  have empty : Memory.wf [] := ⟨.nil, nofun⟩
  ⟨_, step_reset hp hm, fun _ _ => read_fillStores empty, fun _ => read_fillStores_beyond empty, rfl⟩

/-- Settles O59: `bootBlock` is a function of the parameters and the record. -/
theorem onlyNvSurvivesReset : Obligations.OnlyNvSurvivesReset := by
  intro s s' hp hpar hnv
  refine ⟨_, _, resetStep_eq_bootBlock hp, resetStep_eq_bootBlock (hpar ▸ hp), ?_⟩
  show bootBlock s'.par s'.nv = bootBlock s.par s.nv
  rw [hpar, hnv]

/-! ### A show during a render -/

/-- The commands that request a render set the flag and clear the pointer; beside that they reach the buffer and the draws only (R96,
R98, R108). -/
theorem exec_renderRequest (hcount : s.cfgCount.toNat ≤ s.par.maxLeds) (hc : c = .cShow ∨ c = .cClearShow ∨ c = .cRainbow) :
    ∃ m n, exec (buildCommand c []) s = .next ((((s.withFb m).tookDraws n).setFlag .render).setPointer 0 0) := by
  rcases hc with rfl | rfl | rfl
  · exact ⟨s.fb, 0, rfl⟩
  · exact ⟨_, 0, exec_cmdClearShow hcount⟩
  · exact ⟨_, _, exec_cmdRainbow hcount⟩

/-- Such a command leaves the parameters and `CTRL`, takes its schedule entry and adds no event but its own. -/
theorem step_renderRequest (hp : s.par.wf = true) (hcount : s.cfgCount.toNat ≤ s.par.maxLeds) (hj : s.ctrl ≠ .jumped)
    (hc : c = .cShow ∨ c = .cClearShow ∨ c = .cRainbow) (hin : s.inputs = .bus (.write [0, s.par.codes.code c]) :: rest) :
    ∃ t, step s = .next t ∧ t.par = s.par ∧ t.ctrl = s.ctrl ∧ t.inputs = rest ∧
      t.trace = s.trace ++ [.bus (.write [0, s.par.codes.code c])] := by
  have hargs : ([] : List Byte).length = c.arity := by rcases hc with rfl | rfl | rfl <;> rfl
  obtain ⟨m, n, hexec⟩ := exec_renderRequest (s := s.busTaken _ rest) hcount hc
  exact ⟨_, step_bus hp hj hin (decode_command (c := s.ctx) hp c hargs) hexec, rfl, rfl, rfl, rfl⟩

/-- Settles O46: the snapshot is committed at the start, the command leaves the service in progress, and the service's last turn clears
the flag the command set again. -/
theorem showDuringARenderIsLost : Obligations.ShowDuringARenderIsLost := by
  intro s c f rest hs hr hf hc hin
  have start := (step_start (f := .render) hs.params hr hf hin).trans (startService_render hs.count.2)
  obtain ⟨u, request, hpar, hbusy, hinu, htrace⟩ := step_renderRequest
    (s := State.renderStarted { s with inputs := .bus (.write [0, s.par.codes.code c]) :: .ctrl f :: rest })
    hs.params hs.count.2 (show Ctrl.renderBusy ≠ .jumped by decide) hc rfl
  have finish := step_renderBusy (hpar ▸ hs.params) (.inl ⟨f, rest, hinu⟩) hbusy
  exact ⟨_, (run_step start).trans ((run_step request).trans (run_step finish)), rfl, rfl, congrArg List.tail hinu,
    htrace.trans (List.append_assoc _ _ _)⟩

end Sys2Proof.Machine
